-- ==== Sys2Proof/Word.lean ====
section
/-! DEFINITION. The word types of the machine (spec 00_scope.md R4, R6). -/

namespace Sys2Proof

/-- A 32-bit register, address or instruction word (R4: XLEN = ILEN = 32). -/
abbrev Word := BitVec 32

/-- A 16-bit halfword: an immediate, a halfword of memory, an SPU register. -/
abbrev Half := BitVec 16

/-- A byte of memory. -/
abbrev Byte := BitVec 8

/-- A register number 0 to 31 (R4: NGPR = NCOP0 = 32). -/
abbrev Reg := BitVec 5

end Sys2Proof
end

