-- ==== Sys2Proof/Syntax.lean ====
section
/-! DEFINITION. The instruction set: one constructor per row of spec/opcode_table.json, its arguments the row's fields in the
row's order, each with exactly the width of its bits (30_encoding.md R101, R115). -/

namespace Sys2Proof

/-- The instructions of the PSX-CPU block (00_scope.md R2; 30_encoding.md R105 to R108). -/
inductive Instr where
  -- Immediate arithmetic and logic (40_alu_immediate.md)
  /-- ADDI (R131). -/
  | addi (rs : Reg) (rt : Reg) (imm : Half)
  /-- ADDIU (R132). -/
  | addiu (rs : Reg) (rt : Reg) (imm : Half)
  /-- SLTI (R133). -/
  | slti (rs : Reg) (rt : Reg) (imm : Half)
  /-- SLTIU (R134). -/
  | sltiu (rs : Reg) (rt : Reg) (imm : Half)
  /-- ANDI (R135). -/
  | andi (rs : Reg) (rt : Reg) (imm : Half)
  /-- ORI (R136). -/
  | ori (rs : Reg) (rt : Reg) (imm : Half)
  /-- XORI (R137). -/
  | xori (rs : Reg) (rt : Reg) (imm : Half)
  /-- LUI (R138). -/
  | lui (rt : Reg) (imm : Half)
  -- Register arithmetic and logic (41_alu_register.md)
  /-- ADD (R141). -/
  | add (rs : Reg) (rt : Reg) (rd : Reg)
  /-- ADDU (R142). -/
  | addu (rs : Reg) (rt : Reg) (rd : Reg)
  /-- SUB (R143). -/
  | sub (rs : Reg) (rt : Reg) (rd : Reg)
  /-- SUBU (R144). -/
  | subu (rs : Reg) (rt : Reg) (rd : Reg)
  /-- AND (R145). -/
  | and (rs : Reg) (rt : Reg) (rd : Reg)
  /-- OR (R146). -/
  | or (rs : Reg) (rt : Reg) (rd : Reg)
  /-- XOR (R147). -/
  | xor (rs : Reg) (rt : Reg) (rd : Reg)
  /-- NOR (R148). -/
  | nor (rs : Reg) (rt : Reg) (rd : Reg)
  /-- SLT (R149). -/
  | slt (rs : Reg) (rt : Reg) (rd : Reg)
  /-- SLTU (R150). -/
  | sltu (rs : Reg) (rt : Reg) (rd : Reg)
  -- Shifts (42_shift.md)
  /-- SLL (R156). -/
  | sll (rt : Reg) (rd : Reg) (shamt : BitVec 5)
  /-- SRL (R157). -/
  | srl (rt : Reg) (rd : Reg) (shamt : BitVec 5)
  /-- SRA (R158). -/
  | sra (rt : Reg) (rd : Reg) (shamt : BitVec 5)
  /-- SLLV (R159). -/
  | sllv (rs : Reg) (rt : Reg) (rd : Reg)
  /-- SRLV (R160). -/
  | srlv (rs : Reg) (rt : Reg) (rd : Reg)
  /-- SRAV (R161). -/
  | srav (rs : Reg) (rt : Reg) (rd : Reg)
  -- Multiply, divide, HI and LO (43_muldiv.md)
  /-- MULT (R166). -/
  | mult (rs : Reg) (rt : Reg)
  /-- MULTU (R167). -/
  | multu (rs : Reg) (rt : Reg)
  /-- DIV (R168). -/
  | div (rs : Reg) (rt : Reg)
  /-- DIVU (R169). -/
  | divu (rs : Reg) (rt : Reg)
  /-- MFHI (R170). -/
  | mfhi (rd : Reg)
  /-- MFLO (R171). -/
  | mflo (rd : Reg)
  /-- MTHI (R172). -/
  | mthi (rs : Reg)
  /-- MTLO (R173). -/
  | mtlo (rs : Reg)
  -- Jumps and branches (44_branch_jump.md)
  /-- J (R183). -/
  | j (target : BitVec 26)
  /-- JAL (R184). -/
  | jal (target : BitVec 26)
  /-- JR (R185). -/
  | jr (rs : Reg)
  /-- JALR (R186). -/
  | jalr (rs : Reg) (rd : Reg)
  /-- BEQ (R188). -/
  | beq (rs : Reg) (rt : Reg) (imm : Half)
  /-- BNE (R189). -/
  | bne (rs : Reg) (rt : Reg) (imm : Half)
  /-- BLEZ (R190). -/
  | blez (rs : Reg) (imm : Half)
  /-- BGTZ (R191). -/
  | bgtz (rs : Reg) (imm : Half)
  /-- BLTZ (R192). -/
  | bltz (rs : Reg) (imm : Half)
  /-- BGEZ (R193). -/
  | bgez (rs : Reg) (imm : Half)
  /-- BLTZAL (R194). -/
  | bltzal (rs : Reg) (imm : Half)
  /-- BGEZAL (R195). -/
  | bgezal (rs : Reg) (imm : Half)
  -- Loads and stores (45_load_store.md)
  /-- LB (R212). -/
  | lb (base : Reg) (rt : Reg) (offset : Half)
  /-- LBU (R213). -/
  | lbu (base : Reg) (rt : Reg) (offset : Half)
  /-- LH (R214). -/
  | lh (base : Reg) (rt : Reg) (offset : Half)
  /-- LHU (R215). -/
  | lhu (base : Reg) (rt : Reg) (offset : Half)
  /-- LW (R216). -/
  | lw (base : Reg) (rt : Reg) (offset : Half)
  /-- LWL (R217). -/
  | lwl (base : Reg) (rt : Reg) (offset : Half)
  /-- LWR (R218). -/
  | lwr (base : Reg) (rt : Reg) (offset : Half)
  /-- SB (R221). -/
  | sb (base : Reg) (rt : Reg) (offset : Half)
  /-- SH (R222). -/
  | sh (base : Reg) (rt : Reg) (offset : Half)
  /-- SW (R223). -/
  | sw (base : Reg) (rt : Reg) (offset : Half)
  /-- SWL (R224). -/
  | swl (base : Reg) (rt : Reg) (offset : Half)
  /-- SWR (R225). -/
  | swr (base : Reg) (rt : Reg) (offset : Half)
  -- System and Coprocessor 0 (46_system_cop0.md)
  /-- SYSCALL (R231). -/
  | syscall (code : BitVec 20)
  /-- BREAK (R232). -/
  | brk (code : BitVec 20)
  /-- MFC0 (R233). -/
  | mfc0 (rt : Reg) (rd : Reg)
  /-- CFC0 (R234). -/
  | cfc0 (rt : Reg) (rd : Reg)
  /-- MTC0 (R235). -/
  | mtc0 (rt : Reg) (rd : Reg)
  /-- CTC0 (R236). -/
  | ctc0 (rt : Reg) (rd : Reg)
  /-- RFE (R237). -/
  | rfe
  deriving DecidableEq, Repr

end Sys2Proof
end

