-- ==== Sys2Proof/WellFormed.lean ====
section
/-! DEFINITION. Well-formed instructions. The operand types of `Instr` have exactly the widths of the encoding, so that every
instruction built from them passes the check; the check itself is on operand fields, as the opcode table places them. -/

namespace Sys2Proof

/-- An operand field of an instruction word: the table's name of it, its lowest bit, its width and the value it holds. -/
structure Field where
  name  : String
  lo    : Nat
  width : Nat
  value : Nat
  deriving DecidableEq, Repr

/-- The value fits the field's bits. -/
def Field.fits (f : Field) : Bool := decide (f.value < 2 ^ f.width)

/-- The field lies inside the 32 bits of the word (30_encoding.md R100). -/
def Field.inWord (f : Field) : Bool := decide (f.lo + f.width ≤ 32)

/-- The two fields share no bit. -/
def Field.disjoint (f g : Field) : Bool := decide (f.lo + f.width ≤ g.lo) || decide (g.lo + g.width ≤ f.lo)

/-- No field of the list overlaps a later one. -/
def fieldsDisjoint : List Field → Bool
  | [] => true
  | f :: rest => rest.all f.disjoint && fieldsDisjoint rest

/-- The three checks on the operand fields of one instruction. -/
def fieldsOk (fs : List Field) : Bool := fs.all Field.fits && fs.all Field.inWord && fieldsDisjoint fs

/-! The field positions of 00_scope.md R9. -/

def Field.rs (v : BitVec 5) : Field := ⟨"rs", 21, 5, v.toNat⟩
def Field.base (v : BitVec 5) : Field := ⟨"base", 21, 5, v.toNat⟩
def Field.rt (v : BitVec 5) : Field := ⟨"rt", 16, 5, v.toNat⟩
def Field.rd (v : BitVec 5) : Field := ⟨"rd", 11, 5, v.toNat⟩
def Field.shamt (v : BitVec 5) : Field := ⟨"shamt", 6, 5, v.toNat⟩
def Field.imm (v : BitVec 16) : Field := ⟨"imm", 0, 16, v.toNat⟩
def Field.offset (v : BitVec 16) : Field := ⟨"offset", 0, 16, v.toNat⟩
def Field.target (v : BitVec 26) : Field := ⟨"target", 0, 26, v.toNat⟩
def Field.code (v : BitVec 20) : Field := ⟨"code", 6, 20, v.toNat⟩

/-- The operand fields of an instruction, as its row of spec/opcode_table.json lists them. -/
def Instr.fields : Instr → List Field
  | .addi rs rt imm | .addiu rs rt imm | .slti rs rt imm | .sltiu rs rt imm | .andi rs rt imm | .ori rs rt imm
  | .xori rs rt imm | .beq rs rt imm | .bne rs rt imm =>
    [Field.rs rs, Field.rt rt, Field.imm imm]
  | .lui rt imm =>
    [Field.rt rt, Field.imm imm]
  | .add rs rt rd | .addu rs rt rd | .sub rs rt rd | .subu rs rt rd | .and rs rt rd | .or rs rt rd
  | .xor rs rt rd | .nor rs rt rd | .slt rs rt rd | .sltu rs rt rd | .sllv rs rt rd | .srlv rs rt rd
  | .srav rs rt rd =>
    [Field.rs rs, Field.rt rt, Field.rd rd]
  | .sll rt rd shamt | .srl rt rd shamt | .sra rt rd shamt =>
    [Field.rt rt, Field.rd rd, Field.shamt shamt]
  | .mult rs rt | .multu rs rt | .div rs rt | .divu rs rt =>
    [Field.rs rs, Field.rt rt]
  | .mfhi rd | .mflo rd =>
    [Field.rd rd]
  | .mthi rs | .mtlo rs | .jr rs =>
    [Field.rs rs]
  | .j target | .jal target =>
    [Field.target target]
  | .jalr rs rd =>
    [Field.rs rs, Field.rd rd]
  | .blez rs imm | .bgtz rs imm | .bltz rs imm | .bgez rs imm | .bltzal rs imm | .bgezal rs imm =>
    [Field.rs rs, Field.imm imm]
  | .lb base rt offset | .lbu base rt offset | .lh base rt offset | .lhu base rt offset | .lw base rt offset
  | .lwl base rt offset | .lwr base rt offset | .sb base rt offset | .sh base rt offset | .sw base rt offset
  | .swl base rt offset | .swr base rt offset =>
    [Field.base base, Field.rt rt, Field.offset offset]
  | .syscall code | .brk code =>
    [Field.code code]
  | .mfc0 rt rd | .cfc0 rt rd | .mtc0 rt rd | .ctc0 rt rd =>
    [Field.rt rt, Field.rd rd]
  | .rfe =>
    []

/-- A well-formed instruction: its operand fields pass the three checks. -/
def Instr.wf (i : Instr) : Bool := fieldsOk i.fields

end Sys2Proof
end

