-- ==== Sys2Proof/Decode.lean ====
section
/-! DEFINITION. The two-level decoder of 30_encoding.md R102 to R110, total on every word, and the encoder written from the
same tables. A word whose table entry is "no-op" is rejected by the name of that entry; the machine runs it as a no-op. -/

namespace Sys2Proof

/-! ## The fields of an instruction word (00_scope.md R9) -/

def opOf (w : Word) : BitVec 6 := w.extractLsb' 26 6
def rsOf (w : Word) : Reg := w.extractLsb' 21 5
def rtOf (w : Word) : Reg := w.extractLsb' 16 5
def rdOf (w : Word) : Reg := w.extractLsb' 11 5
def shamtOf (w : Word) : BitVec 5 := w.extractLsb' 6 5
def functOf (w : Word) : BitVec 6 := w.extractLsb' 0 6
def immOf (w : Word) : Half := w.extractLsb' 0 16
def targetOf (w : Word) : BitVec 26 := w.extractLsb' 0 26
def codeOf (w : Word) : BitVec 20 := w.extractLsb' 6 20

/-- The table entries that hold no instruction (R105 to R108, R110; 46_system_cop0.md R240). -/
inductive NoOp where
  /-- Primary op 20 to 31, 39, 44, 45, 47, 52 to 55, 60 to 63. -/
  | reservedPrimary (op : BitVec 6)
  /-- A SPECIAL funct without an instruction. -/
  | reservedSpecial (funct : BitVec 6)
  /-- A REGIMM rt without an instruction. -/
  | reservedRegimm (rt : BitVec 5)
  /-- A COP0 rs without an instruction. -/
  | reservedCop0 (rs : BitVec 5)
  /-- COP1, COP2, COP3: op 17, 18, 19. -/
  | coprocessor (z : BitVec 6)
  /-- LWC0 to LWC3: op 48 to 51. -/
  | lwc (op : BitVec 6)
  /-- SWC0 to SWC3: op 56 to 59. -/
  | swc (op : BitVec 6)
  deriving DecidableEq, Repr

/-- What a word decodes to: an instruction of the opcode table, or a no-op encoding by name. -/
inductive Decoded where
  | instr (i : Instr)
  | noOp (why : NoOp)
  deriving DecidableEq, Repr

/-- The SPECIAL table, indexed by funct (R106). -/
def decodeSpecial (w : Word) : Decoded :=
  match (functOf w).toNat with
  | 0x00 => .instr (.sll (rtOf w) (rdOf w) (shamtOf w))
  | 0x02 => .instr (.srl (rtOf w) (rdOf w) (shamtOf w))
  | 0x03 => .instr (.sra (rtOf w) (rdOf w) (shamtOf w))
  | 0x04 => .instr (.sllv (rsOf w) (rtOf w) (rdOf w))
  | 0x06 => .instr (.srlv (rsOf w) (rtOf w) (rdOf w))
  | 0x07 => .instr (.srav (rsOf w) (rtOf w) (rdOf w))
  | 0x08 => .instr (.jr (rsOf w))
  | 0x09 => .instr (.jalr (rsOf w) (rdOf w))
  | 0x0C => .instr (.syscall (codeOf w))
  | 0x0D => .instr (.brk (codeOf w))
  | 0x10 => .instr (.mfhi (rdOf w))
  | 0x11 => .instr (.mthi (rsOf w))
  | 0x12 => .instr (.mflo (rdOf w))
  | 0x13 => .instr (.mtlo (rsOf w))
  | 0x18 => .instr (.mult (rsOf w) (rtOf w))
  | 0x19 => .instr (.multu (rsOf w) (rtOf w))
  | 0x1A => .instr (.div (rsOf w) (rtOf w))
  | 0x1B => .instr (.divu (rsOf w) (rtOf w))
  | 0x20 => .instr (.add (rsOf w) (rtOf w) (rdOf w))
  | 0x21 => .instr (.addu (rsOf w) (rtOf w) (rdOf w))
  | 0x22 => .instr (.sub (rsOf w) (rtOf w) (rdOf w))
  | 0x23 => .instr (.subu (rsOf w) (rtOf w) (rdOf w))
  | 0x24 => .instr (.and (rsOf w) (rtOf w) (rdOf w))
  | 0x25 => .instr (.or (rsOf w) (rtOf w) (rdOf w))
  | 0x26 => .instr (.xor (rsOf w) (rtOf w) (rdOf w))
  | 0x27 => .instr (.nor (rsOf w) (rtOf w) (rdOf w))
  | 0x2A => .instr (.slt (rsOf w) (rtOf w) (rdOf w))
  | 0x2B => .instr (.sltu (rsOf w) (rtOf w) (rdOf w))
  | _ => .noOp (.reservedSpecial (functOf w))

/-- The REGIMM table, indexed by rt (R107). -/
def decodeRegimm (w : Word) : Decoded :=
  match (rtOf w).toNat with
  | 0x00 => .instr (.bltz (rsOf w) (immOf w))
  | 0x01 => .instr (.bgez (rsOf w) (immOf w))
  | 0x10 => .instr (.bltzal (rsOf w) (immOf w))
  | 0x11 => .instr (.bgezal (rsOf w) (immOf w))
  | _ => .noOp (.reservedRegimm (rtOf w))

/-- The COP0 table, indexed by rs (R108). -/
def decodeCop0 (w : Word) : Decoded :=
  match (rsOf w).toNat with
  | 0x00 => .instr (.mfc0 (rtOf w) (rdOf w))
  | 0x02 => .instr (.cfc0 (rtOf w) (rdOf w))
  | 0x04 => .instr (.mtc0 (rtOf w) (rdOf w))
  | 0x06 => .instr (.ctc0 (rtOf w) (rdOf w))
  | 0x10 => .instr .rfe
  | _ => .noOp (.reservedCop0 (rsOf w))

/-- The name of a primary entry without an instruction (R105). -/
def noOpPrimary (op : BitVec 6) : NoOp :=
  if 0x11#6 ≤ op ∧ op ≤ 0x13#6 then .coprocessor op
  else if 0x30#6 ≤ op ∧ op ≤ 0x33#6 then .lwc op
  else if 0x38#6 ≤ op ∧ op ≤ 0x3B#6 then .swc op
  else .reservedPrimary op

/-- `Execute`'s dispatch (R104): the primary table, with its three sub-tables. -/
def decode (w : Word) : Decoded :=
  match (opOf w).toNat with
  | 0x00 => decodeSpecial w
  | 0x01 => decodeRegimm w
  | 0x10 => decodeCop0 w
  | 0x02 => .instr (.j (targetOf w))
  | 0x03 => .instr (.jal (targetOf w))
  | 0x04 => .instr (.beq (rsOf w) (rtOf w) (immOf w))
  | 0x05 => .instr (.bne (rsOf w) (rtOf w) (immOf w))
  | 0x06 => .instr (.blez (rsOf w) (immOf w))
  | 0x07 => .instr (.bgtz (rsOf w) (immOf w))
  | 0x08 => .instr (.addi (rsOf w) (rtOf w) (immOf w))
  | 0x09 => .instr (.addiu (rsOf w) (rtOf w) (immOf w))
  | 0x0A => .instr (.slti (rsOf w) (rtOf w) (immOf w))
  | 0x0B => .instr (.sltiu (rsOf w) (rtOf w) (immOf w))
  | 0x0C => .instr (.andi (rsOf w) (rtOf w) (immOf w))
  | 0x0D => .instr (.ori (rsOf w) (rtOf w) (immOf w))
  | 0x0E => .instr (.xori (rsOf w) (rtOf w) (immOf w))
  | 0x0F => .instr (.lui (rtOf w) (immOf w))
  | 0x20 => .instr (.lb (rsOf w) (rtOf w) (immOf w))
  | 0x21 => .instr (.lh (rsOf w) (rtOf w) (immOf w))
  | 0x22 => .instr (.lwl (rsOf w) (rtOf w) (immOf w))
  | 0x23 => .instr (.lw (rsOf w) (rtOf w) (immOf w))
  | 0x24 => .instr (.lbu (rsOf w) (rtOf w) (immOf w))
  | 0x25 => .instr (.lhu (rsOf w) (rtOf w) (immOf w))
  | 0x26 => .instr (.lwr (rsOf w) (rtOf w) (immOf w))
  | 0x28 => .instr (.sb (rsOf w) (rtOf w) (immOf w))
  | 0x29 => .instr (.sh (rsOf w) (rtOf w) (immOf w))
  | 0x2A => .instr (.swl (rsOf w) (rtOf w) (immOf w))
  | 0x2B => .instr (.sw (rsOf w) (rtOf w) (immOf w))
  | 0x2E => .instr (.swr (rsOf w) (rtOf w) (immOf w))
  | _ => .noOp (noOpPrimary (opOf w))

/-! ## Words as bytes (R100: little-endian; 20_memory.md R60) -/

/-- The word whose bytes are `b0` (lowest address) to `b3`. -/
def wordOfBytes (b0 b1 b2 b3 : Byte) : Word := b3 ++ b2 ++ b1 ++ b0

/-- Byte `k` (0 to 3) of a word, least significant first. -/
def byteOfWord (w : Word) (k : Nat) : Byte := w.extractLsb' (8 * k) 8

/-- Decode the first instruction of a byte sequence, and give the rest of it; `none` when fewer than four bytes are left. -/
def decodeBytes : List Byte → Option (Decoded × List Byte)
  | b0 :: b1 :: b2 :: b3 :: rest => some (decode (wordOfBytes b0 b1 b2 b3), rest)
  | _ => none

/-- The host's question: the instruction the decoder reads from the bits `w` of a table row. The words are laid out as memory
holds them, decoded, and answered if they are an instruction. -/
def decodeTableWord (nbits w : Nat) : Option Instr :=
  let v : Word := BitVec.ofNat 32 (w % 2 ^ nbits)
  match decodeBytes [byteOfWord v 0, byteOfWord v 1, byteOfWord v 2, byteOfWord v 3] with
  | some (.instr i, _) => some i
  | _ => none

/-! ## The encoder (R101, R105 to R108). Bits the decoder does not examine are written as zero (R103); RFE is written as its
canonical word 0x42000010 (46_system_cop0.md R237). -/

/-- The R format (R101). -/
def encR (op : BitVec 6) (rs rt rd shamt : BitVec 5) (funct : BitVec 6) : Word := op ++ rs ++ rt ++ rd ++ shamt ++ funct

/-- The I format (R101). -/
def encI (op : BitVec 6) (rs rt : BitVec 5) (imm : Half) : Word := op ++ rs ++ rt ++ imm

/-- The word of an instruction. -/
def encode : Instr → Word
  | .addi rs rt imm => encI 0x08#6 rs rt imm
  | .addiu rs rt imm => encI 0x09#6 rs rt imm
  | .slti rs rt imm => encI 0x0A#6 rs rt imm
  | .sltiu rs rt imm => encI 0x0B#6 rs rt imm
  | .andi rs rt imm => encI 0x0C#6 rs rt imm
  | .ori rs rt imm => encI 0x0D#6 rs rt imm
  | .xori rs rt imm => encI 0x0E#6 rs rt imm
  | .lui rt imm => encI 0x0F#6 0#5 rt imm
  | .add rs rt rd => encR 0x00#6 rs rt rd 0#5 0x20#6
  | .addu rs rt rd => encR 0x00#6 rs rt rd 0#5 0x21#6
  | .sub rs rt rd => encR 0x00#6 rs rt rd 0#5 0x22#6
  | .subu rs rt rd => encR 0x00#6 rs rt rd 0#5 0x23#6
  | .and rs rt rd => encR 0x00#6 rs rt rd 0#5 0x24#6
  | .or rs rt rd => encR 0x00#6 rs rt rd 0#5 0x25#6
  | .xor rs rt rd => encR 0x00#6 rs rt rd 0#5 0x26#6
  | .nor rs rt rd => encR 0x00#6 rs rt rd 0#5 0x27#6
  | .slt rs rt rd => encR 0x00#6 rs rt rd 0#5 0x2A#6
  | .sltu rs rt rd => encR 0x00#6 rs rt rd 0#5 0x2B#6
  | .sll rt rd shamt => encR 0x00#6 0#5 rt rd shamt 0x00#6
  | .srl rt rd shamt => encR 0x00#6 0#5 rt rd shamt 0x02#6
  | .sra rt rd shamt => encR 0x00#6 0#5 rt rd shamt 0x03#6
  | .sllv rs rt rd => encR 0x00#6 rs rt rd 0#5 0x04#6
  | .srlv rs rt rd => encR 0x00#6 rs rt rd 0#5 0x06#6
  | .srav rs rt rd => encR 0x00#6 rs rt rd 0#5 0x07#6
  | .mult rs rt => encR 0x00#6 rs rt 0#5 0#5 0x18#6
  | .multu rs rt => encR 0x00#6 rs rt 0#5 0#5 0x19#6
  | .div rs rt => encR 0x00#6 rs rt 0#5 0#5 0x1A#6
  | .divu rs rt => encR 0x00#6 rs rt 0#5 0#5 0x1B#6
  | .mfhi rd => encR 0x00#6 0#5 0#5 rd 0#5 0x10#6
  | .mflo rd => encR 0x00#6 0#5 0#5 rd 0#5 0x12#6
  | .mthi rs => encR 0x00#6 rs 0#5 0#5 0#5 0x11#6
  | .mtlo rs => encR 0x00#6 rs 0#5 0#5 0#5 0x13#6
  | .j target => 0x02#6 ++ target
  | .jal target => 0x03#6 ++ target
  | .jr rs => encR 0x00#6 rs 0#5 0#5 0#5 0x08#6
  | .jalr rs rd => encR 0x00#6 rs 0#5 rd 0#5 0x09#6
  | .beq rs rt imm => encI 0x04#6 rs rt imm
  | .bne rs rt imm => encI 0x05#6 rs rt imm
  | .blez rs imm => encI 0x06#6 rs 0#5 imm
  | .bgtz rs imm => encI 0x07#6 rs 0#5 imm
  | .bltz rs imm => encI 0x01#6 rs 0x00#5 imm
  | .bgez rs imm => encI 0x01#6 rs 0x01#5 imm
  | .bltzal rs imm => encI 0x01#6 rs 0x10#5 imm
  | .bgezal rs imm => encI 0x01#6 rs 0x11#5 imm
  | .lb base rt offset => encI 0x20#6 base rt offset
  | .lbu base rt offset => encI 0x24#6 base rt offset
  | .lh base rt offset => encI 0x21#6 base rt offset
  | .lhu base rt offset => encI 0x25#6 base rt offset
  | .lw base rt offset => encI 0x23#6 base rt offset
  | .lwl base rt offset => encI 0x22#6 base rt offset
  | .lwr base rt offset => encI 0x26#6 base rt offset
  | .sb base rt offset => encI 0x28#6 base rt offset
  | .sh base rt offset => encI 0x29#6 base rt offset
  | .sw base rt offset => encI 0x2B#6 base rt offset
  | .swl base rt offset => encI 0x2A#6 base rt offset
  | .swr base rt offset => encI 0x2E#6 base rt offset
  | .syscall code => 0x00#6 ++ code ++ 0x0C#6
  | .brk code => 0x00#6 ++ code ++ 0x0D#6
  | .mfc0 rt rd => encR 0x10#6 0x00#5 rt rd 0#5 0x00#6
  | .cfc0 rt rd => encR 0x10#6 0x02#5 rt rd 0#5 0x00#6
  | .mtc0 rt rd => encR 0x10#6 0x04#5 rt rd 0#5 0x00#6
  | .ctc0 rt rd => encR 0x10#6 0x06#5 rt rd 0#5 0x00#6
  | .rfe => encR 0x10#6 0x10#5 0#5 0#5 0#5 0x10#6

/-! ## The opcode table as data (spec/opcode_table.json): a word belongs to a row when its key bits are the row's -/

/-- One row: the mnemonic, the key bits' values and which bits are key bits (R103). -/
structure TableRow where
  mnemonic : String
  bits     : Word
  mask     : Word
  deriving DecidableEq, Repr

/-- The word has the row's key bits. -/
def TableRow.selects (r : TableRow) (w : Word) : Bool := w &&& r.mask == r.bits

/-- The row of an instruction. -/
def Instr.row : Instr → TableRow
  | .addi _ _ _ => ⟨"ADDI", 0x20000000, 0xFC000000⟩
  | .addiu _ _ _ => ⟨"ADDIU", 0x24000000, 0xFC000000⟩
  | .slti _ _ _ => ⟨"SLTI", 0x28000000, 0xFC000000⟩
  | .sltiu _ _ _ => ⟨"SLTIU", 0x2C000000, 0xFC000000⟩
  | .andi _ _ _ => ⟨"ANDI", 0x30000000, 0xFC000000⟩
  | .ori _ _ _ => ⟨"ORI", 0x34000000, 0xFC000000⟩
  | .xori _ _ _ => ⟨"XORI", 0x38000000, 0xFC000000⟩
  | .lui _ _ => ⟨"LUI", 0x3C000000, 0xFC000000⟩
  | .add _ _ _ => ⟨"ADD", 0x00000020, 0xFC00003F⟩
  | .addu _ _ _ => ⟨"ADDU", 0x00000021, 0xFC00003F⟩
  | .sub _ _ _ => ⟨"SUB", 0x00000022, 0xFC00003F⟩
  | .subu _ _ _ => ⟨"SUBU", 0x00000023, 0xFC00003F⟩
  | .and _ _ _ => ⟨"AND", 0x00000024, 0xFC00003F⟩
  | .or _ _ _ => ⟨"OR", 0x00000025, 0xFC00003F⟩
  | .xor _ _ _ => ⟨"XOR", 0x00000026, 0xFC00003F⟩
  | .nor _ _ _ => ⟨"NOR", 0x00000027, 0xFC00003F⟩
  | .slt _ _ _ => ⟨"SLT", 0x0000002A, 0xFC00003F⟩
  | .sltu _ _ _ => ⟨"SLTU", 0x0000002B, 0xFC00003F⟩
  | .sll _ _ _ => ⟨"SLL", 0x00000000, 0xFC00003F⟩
  | .srl _ _ _ => ⟨"SRL", 0x00000002, 0xFC00003F⟩
  | .sra _ _ _ => ⟨"SRA", 0x00000003, 0xFC00003F⟩
  | .sllv _ _ _ => ⟨"SLLV", 0x00000004, 0xFC00003F⟩
  | .srlv _ _ _ => ⟨"SRLV", 0x00000006, 0xFC00003F⟩
  | .srav _ _ _ => ⟨"SRAV", 0x00000007, 0xFC00003F⟩
  | .mult _ _ => ⟨"MULT", 0x00000018, 0xFC00003F⟩
  | .multu _ _ => ⟨"MULTU", 0x00000019, 0xFC00003F⟩
  | .div _ _ => ⟨"DIV", 0x0000001A, 0xFC00003F⟩
  | .divu _ _ => ⟨"DIVU", 0x0000001B, 0xFC00003F⟩
  | .mfhi _ => ⟨"MFHI", 0x00000010, 0xFC00003F⟩
  | .mflo _ => ⟨"MFLO", 0x00000012, 0xFC00003F⟩
  | .mthi _ => ⟨"MTHI", 0x00000011, 0xFC00003F⟩
  | .mtlo _ => ⟨"MTLO", 0x00000013, 0xFC00003F⟩
  | .j _ => ⟨"J", 0x08000000, 0xFC000000⟩
  | .jal _ => ⟨"JAL", 0x0C000000, 0xFC000000⟩
  | .jr _ => ⟨"JR", 0x00000008, 0xFC00003F⟩
  | .jalr _ _ => ⟨"JALR", 0x00000009, 0xFC00003F⟩
  | .beq _ _ _ => ⟨"BEQ", 0x10000000, 0xFC000000⟩
  | .bne _ _ _ => ⟨"BNE", 0x14000000, 0xFC000000⟩
  | .blez _ _ => ⟨"BLEZ", 0x18000000, 0xFC000000⟩
  | .bgtz _ _ => ⟨"BGTZ", 0x1C000000, 0xFC000000⟩
  | .bltz _ _ => ⟨"BLTZ", 0x04000000, 0xFC1F0000⟩
  | .bgez _ _ => ⟨"BGEZ", 0x04010000, 0xFC1F0000⟩
  | .bltzal _ _ => ⟨"BLTZAL", 0x04100000, 0xFC1F0000⟩
  | .bgezal _ _ => ⟨"BGEZAL", 0x04110000, 0xFC1F0000⟩
  | .lb _ _ _ => ⟨"LB", 0x80000000, 0xFC000000⟩
  | .lbu _ _ _ => ⟨"LBU", 0x90000000, 0xFC000000⟩
  | .lh _ _ _ => ⟨"LH", 0x84000000, 0xFC000000⟩
  | .lhu _ _ _ => ⟨"LHU", 0x94000000, 0xFC000000⟩
  | .lw _ _ _ => ⟨"LW", 0x8C000000, 0xFC000000⟩
  | .lwl _ _ _ => ⟨"LWL", 0x88000000, 0xFC000000⟩
  | .lwr _ _ _ => ⟨"LWR", 0x98000000, 0xFC000000⟩
  | .sb _ _ _ => ⟨"SB", 0xA0000000, 0xFC000000⟩
  | .sh _ _ _ => ⟨"SH", 0xA4000000, 0xFC000000⟩
  | .sw _ _ _ => ⟨"SW", 0xAC000000, 0xFC000000⟩
  | .swl _ _ _ => ⟨"SWL", 0xA8000000, 0xFC000000⟩
  | .swr _ _ _ => ⟨"SWR", 0xB8000000, 0xFC000000⟩
  | .syscall _ => ⟨"SYSCALL", 0x0000000C, 0xFC00003F⟩
  | .brk _ => ⟨"BREAK", 0x0000000D, 0xFC00003F⟩
  | .mfc0 _ _ => ⟨"MFC0", 0x40000000, 0xFFE00000⟩
  | .cfc0 _ _ => ⟨"CFC0", 0x40400000, 0xFFE00000⟩
  | .mtc0 _ _ => ⟨"MTC0", 0x40800000, 0xFFE00000⟩
  | .ctc0 _ _ => ⟨"CTC0", 0x40C00000, 0xFFE00000⟩
  | .rfe => ⟨"RFE", 0x42000000, 0xFFE00000⟩

end Sys2Proof
end

