-- ==== Sys2Proof/Config.lean ====
section
/-! DEFINITION. What an implementation fixes: the parameters of 00_scope.md R5 that have more than one value, and the free
values of the parties outside the block (the SPU and the firmware agent). -/

namespace Sys2Proof

/-- MISALIGNED_POLICY (20_memory.md R77, D4): what a misaligned halfword or word access, or fetch, does. -/
inductive MisalignedPolicy where
  /-- The access has no meaning: the model stops. -/
  | refuse
  /-- AdEL (code 4) for loads and fetch, AdES (code 5) for stores. -/
  | addressError
  /-- The n bytes starting at the address within the resolved store. -/
  | bytewise
  deriving DecidableEq, Repr

/-- LOAD_DELAY_POLICY (70_reset_and_hazards.md R360, D18): what a load-use hazard does. -/
inductive LoadDelayPolicy where
  | refuseOnUse
  | immediate
  | lineage
  | hardware
  deriving DecidableEq, Repr

/-- ISTAT_ACK_POLICY (60_exceptions.md R294, D30). -/
inductive AckPolicy where
  | docAndNot
  | lineageAnd
  | hardwareAnd
  deriving DecidableEq, Repr

/-- FIRMWARE (60_exceptions.md R268, D27): no firmware agent, or one whose general handler is arbitrary. -/
inductive Firmware where
  | absent
  | hle
  deriving DecidableEq, Repr

/-- Which SPU answers the block's calls (60_exceptions.md R301): the null SPU of the test vectors, which returns zeros, or an
external one whose answers are free values. -/
inductive SpuPort where
  | null
  | external
  deriving DecidableEq, Repr

/-- The parameters of the step relation (R5, R41), as plain data. No step changes them. -/
structure Params where
  misaligned       : MisalignedPolicy
  overflowTraps    : Bool
  breakTraps       : Bool
  linkWhenNotTaken : Bool
  bdOnNotTaken     : Bool
  loadDelay        : LoadDelayPolicy
  evalEvery        : Bool
  firmware         : Firmware
  istatAck         : AckPolicy
  spu              : SpuPort
  deriving DecidableEq, Repr

/-- The default column of R5, with the null SPU and no firmware: the configuration of every test vector of 95_test_vectors.md. -/
def Params.specDefault : Params where
  misaligned       := .refuse
  overflowTraps    := false
  breakTraps       := true
  linkWhenNotTaken := true
  bdOnNotTaken     := true
  loadDelay        := .refuseOnUse
  evalEvery        := true
  firmware         := .absent
  istatAck         := .docAndNot
  spu              := .null

/-- DESIGN CHOICE (log 1, 2, 6; unsafe): the parameters the model's reset state carries. They are the defaults of R5 except
that the two policies whose default is to refuse take a value that gives the instruction an effect (every policy agrees on
every program the refusing one accepts, R360, D4), and that the SPU is an external one with free answers (U16). -/
def Params.atReset : Params :=
  { Params.specDefault with misaligned := .addressError, loadDelay := .immediate, spu := .external }

/-- The width of a bus access (20_memory.md R78). -/
inductive Width where
  | byte
  | half
  | word
  deriving DecidableEq, Repr

/-- One bus access the firmware agent makes. The addresses are aligned by construction: the bus primitives of 20_memory.md
R70 to R75 are defined for naturally aligned addresses. -/
inductive FirmwareAccess where
  | readByte  (addr : BitVec 32)
  | readHalf  (addr : BitVec 31)
  | readWord  (addr : BitVec 30)
  | writeByte (addr : BitVec 32) (v : Byte)
  | writeHalf (addr : BitVec 31) (v : Half)
  | writeWord (addr : BitVec 30) (v : Word)
  deriving DecidableEq, Repr

/-- What one run of the general firmware handler does to the block (60_exceptions.md R271): it may rewrite any general
register, HI, LO, pc, any Coprocessor-0 register, and any memory through the bus. -/
structure FirmwareEffect where
  gpr      : Vector Word 32
  hi       : Word
  lo       : Word
  pc       : Word
  cop0     : Vector Word 32
  accesses : List FirmwareAccess
  deriving DecidableEq, Repr, Inhabited

/-- A call the SPU received (60_exceptions.md R300). The DMA write carries the RAM contents it may read. -/
inductive SpuCall where
  | readRegister (addr : Word)
  | writeRegister (addr : Word) (v : Half)
  | writeDmaBlock (base words : Nat) (ram : List Host.Cell)
  | readDmaBlock (base words : Nat)
  deriving DecidableEq, Repr

/-- FREE VALUE (log 6; safe): what an external SPU answers to the register read at the head of the calls it has received,
newest first (R300, R301, U16). -/
opaque Config.spuRegister : List SpuCall → Half

/-- FREE VALUE (log 6; safe): byte `k` that an external SPU supplies to the DMA read at the head of the calls it has received
(R300, R301, U16). -/
opaque Config.spuDmaByte : List SpuCall → Nat → Byte

end Sys2Proof
end

