-- ==== Sys2Proof/Machine/Constants.lean ====
section
/-! DEFINITION. The literals of the spec: addresses, bit positions, rates and reset values (00_scope.md R4, R5; log 16). -/

namespace Sys2Proof.Machine

/-! ## Address map (20_memory.md R62, R85; 10_state.md R38) -/

def parPage : Nat := 0x1F00
def ioPage : Nat := 0x1F80
def romPage : Nat := 0xBFC0

/-- HW_FAST_LIMIT: I/O-page offsets below it are plain storage (R66). -/
def fastLimit : Nat := 0x1000

/-- CACHE_CTRL, its two isolate values and its restore value (R85, D3). -/
def cacheCtrl : Word := 0xFFFE0130
def isolateA : Word := 0x00000800
def isolateB : Word := 0x00000804
def restoreValue : Word := 0x0001E988

/-! Offsets in the I/O page of the registers that live in store H (10_state.md R38). -/

def iStatOff : Nat := 0x1070
def iMaskOff : Nat := 0x1074
def d4MadrOff : Nat := 0x10C0
def d4BcrOff : Nat := 0x10C4
def d4ChcrOff : Nat := 0x10C8
def dpcrOff : Nat := 0x10F0
def dicrOff : Nat := 0x10F4

/-- First offset of the SPU window, and the first one past it (60_exceptions.md R290, R298). -/
def spuLo : Nat := 0x1C00
def spuHi : Nat := 0x1E00

/-! ## Coprocessor-0 register numbers (10_state.md R29; c0[8]: 60_exceptions.md R252) -/

def badVAddrReg : Reg := 8
def statusReg : Reg := 12
def causeReg : Reg := 13
def epcReg : Reg := 14
def pridReg : Reg := 15

/-! ## Traps (60_exceptions.md R263) -/

def vectorGeneral : Word := 0x80000080
def vectorBoot : Word := 0xBFC00180

/-! ## Timing and counter rates (70_reset_and_hazards.md R371; 60_exceptions.md R312) -/

def clockHz : Nat := 33868800
def frameCycles : Word := 564480
def rate0Alt : Word := 5
def rate1Alt : Word := 2154
def rate2Alt : Word := 8

/-! ## Reset values (10_state.md R42) -/

def resetPc : Word := 0xBFC00000
def resetStatus : Word := 0x10600000
/-- The other value of the parameter RESET_STATUS (90_conflicts.md C12, U35). -/
def resetStatusLineage : Word := 0x10900000
def resetPrid : Word := 0x00000002

end Sys2Proof.Machine
end

