-- ==== Sys2Proof/Machine/State.lean ====
section
/-! DEFINITION. The state of the block (10_state.md R20), as plain data, the reasons a step can stop, and the state after
reset. -/

namespace Sys2Proof.Machine

/-- The delay-slot state (10_state.md R28). -/
inductive Slot where
  | none
  | notTaken
  | taken (target : Word)
  deriving DecidableEq, Repr

/-- The four backing stores M, P, H, R (10_state.md R35). -/
inductive Store where
  | ram
  | par
  | io
  | rom
  deriving DecidableEq, Repr

/-- The contents of the four stores, each a list of (offset, byte) in canonical form (Machine/Memory.lean): strictly rising
offsets below the store's size, and no byte equal to what an unlisted offset reads as. -/
structure Memory where
  ram : List Host.Cell
  par : List Host.Cell
  io  : List Host.Cell
  rom : List Host.Cell
  deriving DecidableEq, Repr

/-- One counter record (10_state.md R39). `cycles` is the field the spec calls `Cycle`; `none` is its NEVER. -/
structure Counter where
  count     : Word
  mode      : Word
  target    : Word
  sCycle    : Word
  cycles    : Option Word
  rate      : Word
  interrupt : Word
  deriving DecidableEq, Repr

/-- The load-class instruction the step before executed (70_reset_and_hazards.md R360): its destination, the value that
register had before it, whether it was LWL or LWR, and whether it stood in the slot of a taken transfer. -/
structure LoadDelay where
  reg         : Reg
  before      : Word
  merging     : Bool
  inTakenSlot : Bool
  deriving DecidableEq, Repr

/-- A loaded value that is held back from its register while the next instruction executes on the value before the load
(70_reset_and_hazards.md R360; 44_branch_jump.md R199, the read path). -/
structure HeldLoad where
  reg   : Reg
  value : Word
  deriving DecidableEq, Repr

/-- The local variables of R12's Step, which `exec` reads and writes: the slot state the executing instruction consumed,
whether an exception was raised in this step, and the load held back from the executing instruction, if any. -/
structure StepCtx where
  consumed : Slot
  trapped  : Bool
  held     : Option HeldLoad
  deriving DecidableEq, Repr

/-- Between steps no instruction is executing. -/
def StepCtx.idle : StepCtx := ⟨.none, false, none⟩

/-- The machine (10_state.md R20), with the model's own fields `ctx` (log 9), `loadDelay` (log 10), `params` (log 1, 2),
`spuCalls` (log 6) and `firmwareCalls` (log 7). -/
structure State where
  /-- x[0] to x[31] (R21); entry 0 is never written. -/
  gpr           : Vector Word 32
  hi            : Word
  lo            : Word
  pc            : Word
  /-- The fetched-word register (R26). -/
  code          : Word
  cycle         : Word
  slot          : Slot
  /-- c0[0] to c0[31] (R29). -/
  cop0          : Vector Word 32
  mem           : Memory
  cacheIsolated : Bool
  ctr           : Vector Counter 4
  loadDelay     : Option LoadDelay
  ctx           : StepCtx
  params        : Params
  /-- The calls the SPU received, newest first (R301). -/
  spuCalls      : List SpuCall
  /-- How often the general firmware handler ran (R271). -/
  firmwareCalls : Nat
  deriving DecidableEq, Repr

/-- The machine stops with a fault. -/
inductive Fault where
  /-- The fetch stage (Machine/Cycle.lean) raises it: a fetch with pc[1:0] ≠ 0 is UNPREDICTABLE (10_state.md R25, U2) unless
  MISALIGNED_POLICY is address-error. Safe: the model stops where the hardware does something unknown. -/
  | unalignedFetch
  deriving DecidableEq, Repr

/-- The step has no meaning. -/
inductive Refusal where
  /-- `exec` answers it for an instruction without a meaning; no arm does. Safe. -/
  | notModelled (mnemonic : String)
  /-- Every control transfer raises it when it stands in a delay slot (44_branch_jump.md R196, U3: UNPREDICTABLE). Safe. -/
  | transferInDelaySlot
  /-- LH, LHU, LW, SH, SW raise it on a misaligned address under MISALIGNED_POLICY = refuse (20_memory.md R77, U1). Safe. -/
  | misalignedAccess
  /-- LH, LHU, LW, SH, SW raise it on a misaligned access that passes the end of its store under MISALIGNED_POLICY =
  bytewise (20_memory.md R77: undefined). Safe. -/
  | accessPastStore
  /-- The step raises it at a load-use hazard under LOAD_DELAY_POLICY = refuse-on-use (70_reset_and_hazards.md R360, U4).
  Safe. -/
  | loadUseHazard
  deriving DecidableEq, Repr

/-- A counter that raises no event: the reset record of counters 0 to 2 (R42). -/
def Counter.atReset (interrupt : Word) : Counter := ⟨0, 0, 0, 0, none, 1, interrupt⟩

/-- The frame timer's record (R42; 60_exceptions.md R321). -/
def Counter.frameAtReset : Counter := ⟨0, 0x58, 1, 0, some frameCycles, frameCycles, 0x01⟩

/-- The reset state with the parameters, the Status value and the ROM contents given (70_reset_and_hazards.md R340, R342). -/
def State.resetWith (p : Params) (status : Word) (rom : List Host.Cell) : State where
  gpr           := Vector.replicate 32 0
  hi            := 0
  lo            := 0
  pc            := resetPc
  code          := 0
  cycle         := 0
  slot          := .none
  cop0          := ((Vector.replicate 32 0).set 12 status).set 15 resetPrid
  mem           := ⟨[], [], [], rom⟩
  cacheIsolated := false
  ctr           := #v[Counter.atReset 0x10, Counter.atReset 0x20, Counter.atReset 0x40, Counter.frameAtReset]
  loadDelay     := none
  ctx           := .idle
  params        := p
  spuCalls      := []
  firmwareCalls := 0

/-- The machine right after reset (10_state.md R42): RESET_STATUS and ROM_IMAGE at their defaults, the parameters of log 1, 2
and 6. -/
def State.reset : State := State.resetWith Params.atReset resetStatus []

end Sys2Proof.Machine
end

