-- ==== Sys2Proof/Machine/Memory.lean ====
section
/-! DEFINITION. The backing stores as canonical lists of (offset, byte), and little-endian halfwords and words in them
(20_memory.md R60, R76; 10_state.md R35). -/

namespace Sys2Proof.Machine

/-- What an unlisted offset reads as: the reset contents of every store (10_state.md R42, R44). -/
def unlistedByte : Byte := 0

/-- The byte at offset `k`. -/
def cellsRead : List Host.Cell → Nat → Byte
  | [], _ => unlistedByte
  | (a, b) :: rest, k => if a = k then b else cellsRead rest k

/-- The list with byte `b` at offset `k`, kept in canonical form. -/
def cellsWrite : List Host.Cell → Nat → Byte → List Host.Cell
  | [], k, b => if b = unlistedByte then [] else [(k, b)]
  | (a, c) :: rest, k, b =>
    if k < a then (if b = unlistedByte then (a, c) :: rest else (k, b) :: (a, c) :: rest)
    else if k = a then (if b = unlistedByte then rest else (k, b) :: rest)
    else (a, c) :: cellsWrite rest k b

/-- Every offset of the list lies above `lo` and below `size`, offsets rise strictly, and no listed byte is what an unlisted
offset reads as. `lo` is one more than the last offset seen. -/
def cellsWf (size : Nat) : Nat → List Host.Cell → Bool
  | _, [] => true
  | lo, (a, b) :: rest => decide (lo ≤ a) && decide (a < size) && b != unlistedByte && cellsWf size (a + 1) rest

/-- The size of a store in bytes (00_scope.md R4). -/
def Store.size : Store → Nat
  | .ram => 0x200000
  | .par => 0x10000
  | .io => 0x10000
  | .rom => 0x80000

def Memory.cells (m : Memory) : Store → List Host.Cell
  | .ram => m.ram
  | .par => m.par
  | .io => m.io
  | .rom => m.rom

def Memory.setCells (m : Memory) (st : Store) (l : List Host.Cell) : Memory :=
  match st with
  | .ram => { m with ram := l }
  | .par => { m with par := l }
  | .io => { m with io := l }
  | .rom => { m with rom := l }

/-- The canonical form of all four stores. -/
def Memory.wf (m : Memory) : Bool :=
  cellsWf Store.ram.size 0 m.ram && cellsWf Store.par.size 0 m.par && cellsWf Store.io.size 0 m.io
    && cellsWf Store.rom.size 0 m.rom

/-- One byte of a store: the read every statement about memory is made with. -/
def Memory.byte (m : Memory) (st : Store) (off : Nat) : Byte := cellsRead (m.cells st) off

/-- Write one byte of a store. An offset past the store's end reaches nothing; no operation of the machine asks for one. -/
def Memory.setByte (m : Memory) (st : Store) (off : Nat) (b : Byte) : Memory :=
  if off < st.size then m.setCells st (cellsWrite (m.cells st) off b) else m

/-- A little-endian halfword (R60). -/
def Memory.half (m : Memory) (st : Store) (off : Nat) : Half := m.byte st (off + 1) ++ m.byte st off

/-- A little-endian word (R60). -/
def Memory.word (m : Memory) (st : Store) (off : Nat) : Word :=
  m.byte st (off + 3) ++ m.byte st (off + 2) ++ m.byte st (off + 1) ++ m.byte st off

def Memory.setHalf (m : Memory) (st : Store) (off : Nat) (v : Half) : Memory :=
  (m.setByte st off (v.extractLsb' 0 8)).setByte st (off + 1) (v.extractLsb' 8 8)

def Memory.setWord (m : Memory) (st : Store) (off : Nat) (v : Word) : Memory :=
  (((m.setByte st off (v.extractLsb' 0 8)).setByte st (off + 1) (v.extractLsb' 8 8)).setByte st (off + 2)
    (v.extractLsb' 16 8)).setByte st (off + 3) (v.extractLsb' 24 8)

/-- The number of bytes of an access. -/
def widthBytes : Width → Nat
  | .byte => 1
  | .half => 2
  | .word => 4

/-- The n bytes at an offset, zero-extended to a word (R70 to R72). -/
def Memory.load (m : Memory) (st : Store) (off : Nat) : Width → Word
  | .byte => (m.byte st off).setWidth 32
  | .half => (m.half st off).setWidth 32
  | .word => m.word st off

/-- Store the low n bytes of `v` at an offset (R73 to R75). -/
def Memory.store (m : Memory) (st : Store) (off : Nat) (w : Width) (v : Word) : Memory :=
  match w with
  | .byte => m.setByte st off (v.setWidth 8)
  | .half => m.setHalf st off (v.setWidth 16)
  | .word => m.setWord st off v

end Sys2Proof.Machine
end

