-- ==== Sys2Proof/Machine/Registers.lean ====
section
/-! DEFINITION. The accessors of the register files and of the single registers (10_state.md R21, R22, R24, R28, R29). Every
other operation reads and writes them through these. -/

namespace Sys2Proof.Machine

/-- The register file with `v` in register `r`; a write to register 0 is discarded (R21). -/
def gprSet (g : Vector Word 32) (r : Reg) (v : Word) : Vector Word 32 :=
  if r = 0#5 then g else g.set r.toNat v r.isLt

/-- x[r] (R21): register 0 reads as 0. -/
def State.readReg (s : State) (r : Reg) : Word := if r = 0#5 then 0#32 else s.gpr[r.toNat]'r.isLt

/-- x[r] <- v (R21). -/
def State.writeReg (s : State) (r : Reg) (v : Word) : State := { s with gpr := gprSet s.gpr r v }

/-- c0[r] (R29, R34): every number is readable. -/
def State.readCop0 (s : State) (r : Reg) : Word := s.cop0[r.toNat]'r.isLt

/-- c0[r] <- v (R29, R34): every number is writable, all 32 bits. -/
def State.writeCop0 (s : State) (r : Reg) (v : Word) : State := { s with cop0 := s.cop0.set r.toNat v r.isLt }

def State.setHi (s : State) (v : Word) : State := { s with hi := v }
def State.setLo (s : State) (v : Word) : State := { s with lo := v }
def State.setPc (s : State) (v : Word) : State := { s with pc := v }
def State.setSlot (s : State) (d : Slot) : State := { s with slot := d }
def State.setMem (s : State) (m : Memory) : State := { s with mem := m }
def State.setIsolated (s : State) (b : Bool) : State := { s with cacheIsolated := b }
def State.setCtr (s : State) (i : Fin 4) (c : Counter) : State := { s with ctr := s.ctr.set i c }
def State.setLoadDelay (s : State) (d : Option LoadDelay) : State := { s with loadDelay := d }
def State.setTrapped (s : State) : State := { s with ctx := { s.ctx with trapped := true } }
def State.setHeld (s : State) (h : Option HeldLoad) : State := { s with ctx := { s.ctx with held := h } }
def State.endCtx (s : State) : State := { s with ctx := StepCtx.idle }

/-- The SPU receives a call (60_exceptions.md R300, R301). -/
def State.logSpu (s : State) (c : SpuCall) : State := { s with spuCalls := c :: s.spuCalls }

/-- The held-back load, if any, lands in its register (70_reset_and_hazards.md R360). -/
def State.landHeld (s : State) : State :=
  match s.ctx.held with
  | none => s
  | some h => (s.writeReg h.reg h.value).setHeld none

/-- `inDelaySlot` of R12: the executing instruction consumed a slot state. -/
def State.inDelaySlot (s : State) : Bool := s.ctx.consumed != .none

/-- The slot belongs to a taken transfer. -/
def slotTaken : Slot → Bool
  | .taken _ => true
  | _ => false

/-- The address the executing instruction was fetched from (R24: pc = ia + 4 while it executes). -/
def State.ia (s : State) : Word := s.pc - 4

end Sys2Proof.Machine
end

