-- ==== Sys2Proof/Machine/Map.lean ====
section
/-! DEFINITION. The page mapper (20_memory.md R62 to R68), instruction fetch (R80) and the registers that live in store H
(10_state.md R38). -/

namespace Sys2Proof.Machine

/-- The page number of an address: its top 16 bits. -/
def pageOf (a : Word) : Nat := a.toNat / 0x10000

/-- The offset of an address in its page. -/
def pageOffset (a : Word) : Nat := a.toNat % 0x10000

/-- The three RAM alias ranges (R62). -/
def isRamPage (p : Nat) : Bool :=
  decide (p < 0x80) || (decide (0x8000 ≤ p) && decide (p < 0x8080)) || (decide (0xA000 ≤ p) && decide (p < 0xA080))

/-- The page table (R62; 10_state.md R36): a function of the cache-isolated bit. `none` is Unmapped. -/
def lut (isolated : Bool) (p : Nat) : Option (Store × Nat) :=
  if isRamPage p then (if isolated then none else some (.ram, p % 0x20 * 0x10000))
  else if p = parPage then some (.par, 0)
  else if p = ioPage then some (.io, 0)
  else if romPage ≤ p ∧ p < romPage + 8 then some (.rom, (p - romPage) * 0x10000)
  else none

/-- Address resolution (R64): the store and the offset in it that an address reaches. -/
def resolveAt (isolated : Bool) (a : Word) : Option (Store × Nat) :=
  match lut isolated (pageOf a) with
  | none => none
  | some (st, base) => some (st, base + pageOffset a)

def State.resolve (s : State) (a : Word) : Option (Store × Nat) := resolveAt s.cacheIsolated a

/-- The byte an address reaches, raw: what R70 reads outside the hardware register file. -/
def State.peek (s : State) (a : Word) : Byte :=
  match s.resolve a with
  | none => 0
  | some (st, off) => s.mem.byte st off

/-- The bytes at an address, raw and through the page table alone; unmapped reads 0 (R65). -/
def State.rawRead (s : State) (a : Word) (w : Width) : Word :=
  match s.resolve a with
  | none => 0
  | some (st, off) => s.mem.load st off w

/-- The bytes at an address written raw; unmapped writes are dropped (R65). -/
def State.rawWrite (s : State) (a : Word) (w : Width) (v : Word) : State :=
  match s.resolve a with
  | none => s
  | some (st, off) => s.setMem (s.mem.store st off w v)

/-- Instruction fetch (R80, R81): through the page table, never through the hardware register file. -/
def State.fetch (s : State) (a : Word) : Word := s.rawRead a .word

/-- The low two bits of an address are zero. -/
def wordAligned (a : Word) : Bool := a.toNat % 4 == 0

/-- Natural alignment (R77). -/
def alignedFor (w : Width) (a : Word) : Bool := a.toNat % widthBytes w == 0

/-- A 32-bit register of store H (10_state.md R38). -/
def State.ioWord (s : State) (off : Nat) : Word := s.mem.word .io off

def State.setIoWord (s : State) (off : Nat) (v : Word) : State := s.setMem (s.mem.setWord .io off v)

/-- Set bits of I_STAT (60_exceptions.md R255, R257). -/
def State.raiseIStat (s : State) (bits : Word) : State := s.setIoWord iStatOff (s.ioWord iStatOff ||| bits)

end Sys2Proof.Machine
end

