-- ==== Sys2Proof/Machine/Counters.lean ====
section
/-! DEFINITION. The four counters (60_exceptions.md R310 to R322; 10_state.md R39). -/

namespace Sys2Proof.Machine

/-- R312: the tick rate that a mode selects for counter `i`. -/
def rateFor (i : Fin 4) (mode : Word) : Word :=
  let src := mode &&& 0x300
  if i = 0 then (if src = 0x100 then rate0Alt else 1)
  else if i = 1 then (if src = 0x100 then rate1Alt else 1)
  else if i = 2 then (if src = 0x200 then rate2Alt else 1)
  else frameCycles

/-- R313: the counter raises events at all. Bit 0 stops counter 2. -/
def raisesEvents (i : Fin 4) (mode : Word) : Bool := mode &&& 0x30 != 0 && !(i == 2 && mode.getLsbD 0)

/-- R313: ticks until the next event, on 16-bit values. -/
def ticksToEvent (c : Counter) : Word :=
  if c.mode.getLsbD 4 then (c.target - c.count) &&& 0xFFFF else (0xFFFF - c.count) &&& 0xFFFF

/-- `Upd(i)` of R313, on the record: the period restarts at cycle `now`. -/
def counterUpd (i : Fin 4) (now : Word) (c : Counter) : Counter :=
  { c with sCycle := now, cycles := if raisesEvents i c.mode then some (ticksToEvent c * c.rate) else none }

/-- R316: the count at cycle `now`. -/
def counterCount (now : Word) (c : Counter) : Word := (c.count + (now - c.sCycle) / c.rate) &&& 0xFFFF

/-- R320: the deadline has passed at cycle `now`. -/
def counterDue (now : Word) (c : Counter) : Bool :=
  match c.cycles with
  | none => false
  | some n => decide (n ≤ now - c.sCycle)

/-- The record part of `Fire(i)` (R314): the count restarts, and a single-shot counter raises no further event. -/
def counterFired (i : Fin 4) (now : Word) (c : Counter) : Counter :=
  let d := counterUpd i now { c with count := 0 }
  if c.mode.getLsbD 6 then d else { d with cycles := none }

/-- `ReadCount(i)` (R316): it changes no state. -/
def State.readCount (s : State) (i : Fin 4) : Word := counterCount s.cycle s.ctr[i]

/-- `WriteCount(i, v)` (R317). -/
def State.writeCount (s : State) (i : Fin 4) (v : Half) : State :=
  s.setCtr i (counterUpd i s.cycle { s.ctr[i] with count := v.setWidth 32 })

/-- `WriteMode(i, v)` (R318). -/
def State.writeMode (s : State) (i : Fin 4) (v : Word) : State :=
  s.setCtr i (counterUpd i s.cycle { s.ctr[i] with mode := v, count := 0, rate := rateFor i v })

/-- `WriteTarget(i, v)` (R319): the count is caught up first. -/
def State.writeTarget (s : State) (i : Fin 4) (v : Half) : State :=
  s.setCtr i (counterUpd i s.cycle { s.ctr[i] with count := s.readCount i, target := v.setWidth 32 })

/-- `Fire(i)` for the programmable counters (R314). -/
def State.fire (s : State) (i : Fin 4) : State :=
  (s.setCtr i (counterFired i s.cycle s.ctr[i])).raiseIStat s.ctr[i].interrupt

/-- `Fire3()` (R321): the frame timer restarts. -/
def State.fire3 (s : State) : State := (s.setCtr 3 (counterUpd 3 s.cycle s.ctr[3])).raiseIStat 0x00000001

/-- One line of R320. -/
def State.fireIfDue (s : State) (i : Fin 4) : State :=
  if counterDue s.cycle s.ctr[i] then (if i = 3 then s.fire3 else s.fire i) else s

/-- `CounterCatchUp()` (R320). -/
def State.catchUp (s : State) : State := (((s.fireIfDue 3).fireIfDue 0).fireIfDue 1).fireIfDue 2

end Sys2Proof.Machine
end

