-- ==== Sys2Proof/Machine/HwFile.lean ====
section
/-! DEFINITION. The hardware register file (60_exceptions.md R290 to R299): I_STAT acknowledge, the sound-DMA channel, the
counter windows, the SPU window (R300, R301), and raw pass-through for everything else. -/

namespace Sys2Proof.Machine

/-! ## The SPU port (R300, R301) -/

/-- `SPU.readRegister(addr)`: the answer, and the state with the call recorded. -/
def State.spuRead (s : State) (addr : Word) : Half × State :=
  (match s.params.spu with
   | .null => 0
   | .external => Config.spuRegister (.readRegister addr :: s.spuCalls),
   s.logSpu (.readRegister addr))

/-- `SPU.writeRegister(addr, v)`: it changes nothing of the block. -/
def State.spuWrite (s : State) (addr : Word) (v : Half) : State := s.logSpu (.writeRegister addr v)

/-- Byte `k` of the DMA block that the SPU supplies to the read it has just received. -/
def State.spuDmaByte (s : State) (k : Nat) : Byte :=
  match s.params.spu with
  | .null => 0
  | .external => Config.spuDmaByte s.spuCalls k

/-! ## The sound-DMA channel (R295, R296) -/

/-- Bytes `f 0` to `f (n - 1)` stored to main RAM from offset `base`, wrapping at its end (R296, D50). DESIGN CHOICE (log 23): they
are stored in the order of rising `k`, so that in a block longer than the 2MB of RAM, which meets the same byte more than once, the
highest `k` wins; R296 gives no order. -/
def Memory.storeRam (m : Memory) (base : Nat) (f : Nat → Byte) : Nat → Memory
  | 0 => m
  | n + 1 => (m.storeRam base f n).setByte .ram ((base + n) % 0x200000) (f n)

/-- The word-aligned RAM offset of a transfer (R296, D50). -/
def dmaBase (madr : Word) : Nat := (madr &&& 0x001FFFFC).toNat

/-- The number of 32-bit words of a transfer (R296, D32). -/
def dmaWords (bcr : Word) : Nat := (bcr.extractLsb' 16 16).toNat * (bcr.extractLsb' 0 16).toNat

/-- `DmaTransfer(madr, bcr, chcr)` (R296). It addresses main RAM directly, whatever the page table says. -/
def State.dmaTransfer (s : State) (madr bcr chcr : Word) : State :=
  let base := dmaBase madr
  let words := dmaWords bcr
  if chcr.getLsbD 0 then s.logSpu (.writeDmaBlock base words s.mem.ram)
  else
    let t := s.logSpu (.readDmaBlock base words)
    t.setMem (t.mem.storeRam base t.spuDmaByte (4 * words))

/-- The end of a transfer (R295): the start bit clears, and the completion interrupt is raised if DICR enables it. -/
def State.dmaComplete (s : State) : State :=
  let t := s.setIoWord d4ChcrOff (s.ioWord d4ChcrOff &&& 0xFEFFFFFF)
  if (t.ioWord dicrOff).getLsbD 20 then
    (t.setIoWord dicrOff (t.ioWord dicrOff ||| 0x10000000)).raiseIStat 0x00000008
  else t

/-- `DmaStartTest()` (R295). -/
def State.dmaStartTest (s : State) : State :=
  if (s.ioWord d4ChcrOff).getLsbD 24 && (s.ioWord dpcrOff).getLsbD 19 then
    (s.dmaTransfer (s.ioWord d4MadrOff) (s.ioWord d4BcrOff) (s.ioWord d4ChcrOff)).dmaComplete
  else s

/-! ## I_STAT acknowledge (R294) -/

/-- The new I_STAT. -/
def ackValue (p : AckPolicy) (istat imask v : Word) : Word :=
  match p with
  | .docAndNot => istat &&& ~~~(v &&& imask)
  | .lineageAnd => istat &&& (v &&& imask)
  | .hardwareAnd => istat &&& v

/-- `IstatAck(v)`. -/
def State.istatAck (s : State) (v : Word) : State :=
  s.setIoWord iStatOff (ackValue s.params.istatAck (s.ioWord iStatOff) (s.ioWord iMaskOff) v)

/-! ## The register map (R290) -/

/-- What an offset at or above the fast limit is, for 16- and 32-bit accesses. -/
inductive HwReg where
  | iStat
  | d4Chcr
  | count (i : Fin 4)
  | mode (i : Fin 4)
  | target (i : Fin 4)
  | spu
  | raw
  deriving DecidableEq, Repr

/-- Registers are matched by exact address (R293); counter 3 has no window (R292). -/
def hwReg (off : Nat) : HwReg :=
  match off with
  | 0x1070 => .iStat
  | 0x10C8 => .d4Chcr
  | 0x1100 => .count 0
  | 0x1104 => .mode 0
  | 0x1108 => .target 0
  | 0x1110 => .count 1
  | 0x1114 => .mode 1
  | 0x1118 => .target 1
  | 0x1120 => .count 2
  | 0x1124 => .mode 2
  | 0x1128 => .target 2
  | _ => if spuLo ≤ off ∧ off < spuHi then .spu else .raw

/-- `HwRead(addr, n)` (R290): the value, and the state, which only an SPU call changes. -/
def State.hwRead (s : State) (addr : Word) (w : Width) : Word × State :=
  let off := pageOffset addr
  match w with
  | .byte => (s.mem.load .io off .byte, s)
  | .half =>
    match hwReg off with
    | .count i => (s.readCount i, s)
    | .mode i => ((s.ctr[i].mode.setWidth 16).setWidth 32, s)
    | .target i => ((s.ctr[i].target.setWidth 16).setWidth 32, s)
    | .spu => ((s.spuRead addr).1.setWidth 32, (s.spuRead addr).2)
    | _ => (s.mem.load .io off .half, s)
  | .word =>
    match hwReg off with
    | .count i => (s.readCount i, s)
    | .mode i => (s.ctr[i].mode, s)
    | .target i => (s.ctr[i].target, s)
    | _ => (s.mem.load .io off .word, s)

/-- `HwWrite(addr, n, v)` (R291). -/
def State.hwWrite (s : State) (addr : Word) (w : Width) (v : Word) : State :=
  let off := pageOffset addr
  match w with
  | .byte => s.setMem (s.mem.store .io off .byte v)
  | .half =>
    match hwReg off with
    | .iStat => s.istatAck ((v.setWidth 16).setWidth 32)
    | .count i => s.writeCount i (v.setWidth 16)
    | .mode i => s.writeMode i ((v.setWidth 16).setWidth 32)
    | .target i => s.writeTarget i (v.setWidth 16)
    | .spu => s.spuWrite addr (v.setWidth 16)
    | _ => s.setMem (s.mem.store .io off .half v)
  | .word =>
    match hwReg off with
    | .iStat => s.istatAck v
    | .d4Chcr => (s.setMem (s.mem.store .io off .word v)).dmaStartTest
    | .count i => s.writeCount i (v.setWidth 16)
    | .mode i => s.writeMode i v
    | .target i => s.writeTarget i (v.setWidth 16)
    | _ => s.setMem (s.mem.store .io off .word v)

end Sys2Proof.Machine
end

