-- ==== Sys2Proof/Machine/Bus.lean ====
section
/-! DEFINITION. The bus primitives MemRead and MemWrite (20_memory.md R69 to R75) and the cache-control address (R85, R86). -/

namespace Sys2Proof.Machine

/-- A data access that the hardware register file answers (R66). -/
def isHwFile (a : Word) : Bool := pageOf a == ioPage && decide (fastLimit ≤ pageOffset a)

/-- `CacheControl(v)` (R85). -/
def State.cacheControl (s : State) (v : Word) : State :=
  if v = isolateA ∨ v = isolateB then s.setIsolated true
  else if v = restoreValue then s.setIsolated false
  else s

/-- `MemRead(addr, n)` (R70 to R72): the value, zero-extended, and the state, which only an SPU call changes. -/
def State.memRead (s : State) (a : Word) (w : Width) : Word × State :=
  if isHwFile a then s.hwRead a w else (s.rawRead a w, s)

/-- `MemWrite(addr, n, v)` (R73 to R75). -/
def State.memWrite (s : State) (a : Word) (w : Width) (v : Word) : State :=
  if isHwFile a then s.hwWrite a w v
  else match s.resolve a with
    | some (st, off) => s.setMem (s.mem.store st off w v)
    | none => if a = cacheCtrl ∧ w = .word then s.cacheControl v else s

end Sys2Proof.Machine
end

