-- ==== Sys2Proof/Machine/Ops.lean ====
section
/-! DEFINITION. Taking an exception (60_exceptions.md R262) with the firmware hand-off (R268 to R271), the return from one
(46_system_cop0.md R237), evaluation points (R258 to R260), and the delay slot (44_branch_jump.md R181, R196). -/

namespace Sys2Proof.Machine

/-! ## Causes (R250) -/

/-- The exception causes this block can raise. -/
inductive Cause where
  | interrupt
  | adEL
  | adES
  | syscall
  | breakpoint
  | overflow
  deriving DecidableEq, Repr

/-- ExcCode (R250, D22). -/
def excCode : Cause → Word
  | .interrupt => 0
  | .adEL => 4
  | .adES => 5
  | .syscall => 8
  | .breakpoint => 9
  | .overflow => 12

/-! ## The Status stack (R264; 46_system_cop0.md R237) -/

/-- The push: old ← previous, previous ← current, current ← (kernel, disabled); bits 31:6 stay. -/
def statusPush (v : Word) : Word := (v &&& 0xFFFFFFC0) ||| ((v &&& 0x0000000F) <<< 2)

/-- The pop: current ← previous, previous ← old; bits 31:4 stay. -/
def statusPop (v : Word) : Word := (v &&& 0xFFFFFFF0) ||| ((v &&& 0x0000003C) >>> 2)

/-! ## The firmware hand-off (R268 to R271) -/

/-- `SyscallShim()` (R270): enter (x[4] = `a0` = 1) or exit (2) a critical section, on the already pushed Status (log 18). -/
def State.syscallShim (s : State) (a0 : Word) : State :=
  let st := s.readCop0 statusReg
  let masked := if a0 = 1 then st &&& 0xFFFFFBFB else st ||| 0x00000404
  (s.setPc (s.readCop0 epcReg + 4)).writeCop0 statusReg (statusPop masked)

/-- FREE VALUE (log 7; safe): what the general firmware handler does in this state, for this cause (R271, U17). -/
opaque Config.firmware : State → Cause → FirmwareEffect

/-- One bus access of the firmware agent (R271). -/
def State.firmwareAccess (s : State) : FirmwareAccess → State
  | .readByte a => (s.memRead a .byte).2
  | .readHalf a => (s.memRead (a ++ 0#1) .half).2
  | .readWord a => (s.memRead (a ++ 0#2) .word).2
  | .writeByte a v => s.memWrite a .byte (v.setWidth 32)
  | .writeHalf a v => s.memWrite (a ++ 0#1) .half (v.setWidth 32)
  | .writeWord a v => s.memWrite (a ++ 0#2) .word v

/-- The general handler (R271): an arbitrary effect on the registers, pc, Coprocessor 0 and memory; it returns with
slot = None. -/
def State.firmwareHandler (s : State) (c : Cause) : State :=
  let e := Config.firmware s c
  let t : State :=
    { s with
      gpr := e.gpr.set 0 (s.gpr[0])
      hi := e.hi
      lo := e.lo
      pc := e.pc
      cop0 := e.cop0
      slot := .none
      firmwareCalls := s.firmwareCalls + 1 }
  e.accesses.foldl State.firmwareAccess t

/-- `FirmwareHandOff(E)` (R268). `a0` is x[4] as the trapped instruction sees it, which matters where a load into x[4] was held
back from a SYSCALL (70_reset_and_hazards.md R360 lists that read of SYSCALL; log 11). -/
def State.firmwareHandOff (s : State) (c : Cause) (a0 : Word) : State :=
  match s.params.firmware with
  | .absent => s
  | .hle => if c = .syscall ∧ (a0 = 1 ∨ a0 = 2) then s.syscallShim a0 else s.firmwareHandler c

/-! ## Trap entry (R262) -/

/-- The Cause register after a trap (R262, D21). -/
def causeWord (c : Cause) (bd : Bool) : Word :=
  (excCode c <<< 2) ||| (if c = .interrupt then 0x00000400 else 0) ||| (if bd then 0x80000000 else 0)

/-- The vector that Status.BEV selects (R263). -/
def trapVector (status : Word) : Word := if status.getLsbD 22 then vectorBoot else vectorGeneral

/-- Trap entry before the firmware hand-off. A load that was held back from the trapped instruction lands first, because every
instruction before the trapped one has completed (R253), and no load-use hazard is pending in the handler (R360). -/
def State.trapRegisters (s : State) (c : Cause) (bd : Bool) (resume : Word) : State :=
  let status := s.readCop0 statusReg
  ((((((s.landHeld.writeCop0 causeReg (causeWord c bd)).writeCop0 epcReg (if bd then resume - 4 else resume)).writeCop0 statusReg
    (statusPush status)).setPc (trapVector status)).setSlot .none).setLoadDelay none).setTrapped

/-- `raise E with code, bd, resume` (R262). -/
def State.raise (s : State) (c : Cause) (bd : Bool) (resume : Word) : State :=
  (s.trapRegisters c bd resume).firmwareHandOff c (s.readReg 4)

/-- BD of a synchronous exception (R262, D16): the trapped instruction stands in a delay slot; with BD_ON_NOT_TAKEN = false
only the slot of a taken transfer counts, and EPC is then computed from this BD (log 17). -/
def State.bdFlag (s : State) : Bool :=
  match s.ctx.consumed with
  | .none => false
  | .notTaken => s.params.bdOnNotTaken
  | .taken _ => true

/-- A synchronous exception of the executing instruction: resume = ia (R262). -/
def State.raiseHere (s : State) (c : Cause) : State := s.raise c s.bdFlag s.ia

/-- An address error at `a`, which c0[8] records (R252), of the instruction at `at`. -/
def State.raiseAddress (s : State) (c : Cause) (a : Word) : State := (s.writeCop0 badVAddrReg a).raiseHere c

/-- Return from exception, the pop (46_system_cop0.md R237). -/
def State.rfe (s : State) : State := s.writeCop0 statusReg (statusPop (s.readCop0 statusReg))

/-! ## Evaluation (R258 to R260) -/

/-- `InterruptCondition()` (R260). -/
def State.interruptCondition (s : State) : Bool :=
  s.ioWord iStatOff &&& s.ioWord iMaskOff != 0 && (s.readCop0 statusReg).getLsbD 0 && (s.readCop0 statusReg).getLsbD 10

/-- `Evaluate()` (R259). -/
def State.evaluate (s : State) : State :=
  let t := s.catchUp
  if t.interruptCondition then t.raise .interrupt false t.pc else t

/-- `EvaluationPoint(s, slot)` (R258). -/
def evaluationPoint (evalEvery : Bool) (consumed left : Slot) : Bool :=
  match left, consumed with
  | .none, .taken _ => true
  | .none, _ => evalEvery
  | _, _ => false

/-! ## Control transfer (44_branch_jump.md R181, R187, R196) -/

/-- A control transfer leaves the slot state `d`; in a delay slot it is UNPREDICTABLE (R196). -/
def State.transfer (s : State) (d : Slot) : Host.Outcome State Fault Refusal :=
  if s.inDelaySlot then .refused .transferInDelaySlot else .next (s.setSlot d)

end Sys2Proof.Machine
end

