-- ==== Sys2Proof/Machine/Flags.lean ====
section
/-! DEFINITION. The machine has no condition codes (00_scope.md R10): what other machines keep in flags is here the value of a
comparison or the condition of a trap or a branch. -/

namespace Sys2Proof.Machine

/-- Signed overflow of an addition (40_alu_immediate.md R131, 41_alu_register.md R141): the exact sum is no 32-bit value. -/
def addOverflows (a b : Word) : Bool := decide (a.toInt + b.toInt ≠ (a + b).toInt)

/-- Signed overflow of a subtraction (R143). -/
def subOverflows (a b : Word) : Bool := decide (a.toInt - b.toInt ≠ (a - b).toInt)

/-- A truth value in a register (R133, R134, R149, R150). -/
def boolWord (b : Bool) : Word := if b then 1 else 0

/-- Signed less-than (R133, R149). -/
def lessSigned (a b : Word) : Bool := decide (a.toInt < b.toInt)

/-- Unsigned less-than (R134, R150). -/
def lessUnsigned (a b : Word) : Bool := decide (a.toNat < b.toNat)

end Sys2Proof.Machine
end

