-- ==== Sys2Proof/Machine/Operands.lean ====
section
/-! DEFINITION. The operand forms of 30_encoding.md R115, the shifts, products and quotients, and the unaligned-access tables of
45_load_store.md R217, R218, R224, R225. -/

namespace Sys2Proof.Machine

/-! ## Immediates and targets (R115) -/

def sext16 (v : Half) : Word := v.signExtend 32
def zext16 (v : Half) : Word := v.setWidth 32
def sext8 (v : Byte) : Word := v.signExtend 32

/-- LUI's operand. -/
def upperImm (v : Half) : Word := v ++ 0#16

/-- The address of a load or store (45_load_store.md R210). -/
def State.effAddr (s : State) (base : Reg) (offset : Half) : Word := s.readReg base + sext16 offset

/-- A branch target, from pc = ia + 4 (44_branch_jump.md R180). -/
def State.branchTarget (s : State) (imm : Half) : Word := s.pc + (sext16 imm <<< 2)

/-- A jump target, from pc = ia + 4. -/
def State.jumpTarget (s : State) (target : BitVec 26) : Word := s.pc.extractLsb' 28 4 ++ target ++ 0#2

/-- The link value ia + 8 = pc + 4 (R180). -/
def State.linkValue (s : State) : Word := s.pc + 4

/-- The amount of a variable shift: the low five bits (42_shift.md R155). -/
def shiftAmount (v : Word) : Nat := (v.extractLsb' 0 5).toNat

/-! ## Multiply and divide (43_muldiv.md R166 to R169), on integers, narrowed at the end -/

/-- The exact signed product. -/
def mulSigned (a b : Word) : BitVec 64 := BitVec.ofInt 64 (a.toInt * b.toInt)

/-- The exact unsigned product. -/
def mulUnsigned (a b : Word) : BitVec 64 := BitVec.ofNat 64 (a.toNat * b.toNat)

def hiHalf (p : BitVec 64) : Word := p.extractLsb' 32 32
def loHalf (p : BitVec 64) : Word := p.extractLsb' 0 32

/-- The signed quotient, truncated toward zero; −2^31 ÷ −1 wraps to 0x80000000 (D11, D12). -/
def quotSigned (a b : Word) : Word := BitVec.ofInt 32 (a.toInt.tdiv b.toInt)

/-- The signed remainder, with the sign of the dividend (D12). -/
def remSigned (a b : Word) : Word := BitVec.ofInt 32 (a.toInt.tmod b.toInt)

def quotUnsigned (a b : Word) : Word := BitVec.ofNat 32 (a.toNat / b.toNat)
def remUnsigned (a b : Word) : Word := BitVec.ofNat 32 (a.toNat % b.toNat)

/-! ## The unaligned-access tables, keyed by k = addr[1:0] -/

/-- addr[1:0]. -/
def lowBits (a : Word) : Nat := a.toNat % 4

/-- addr AND 0xFFFFFFFC. -/
def alignDown (a : Word) : Word := a &&& 0xFFFFFFFC

def lwlMask (k : Nat) : Word :=
  match k with
  | 0 => 0x00FFFFFF
  | 1 => 0x0000FFFF
  | 2 => 0x000000FF
  | _ => 0x00000000

def lwlShift (k : Nat) : Nat :=
  match k with
  | 0 => 24
  | 1 => 16
  | 2 => 8
  | _ => 0

def lwrMask (k : Nat) : Word :=
  match k with
  | 0 => 0x00000000
  | 1 => 0xFF000000
  | 2 => 0xFFFF0000
  | _ => 0xFFFFFF00

def lwrShift (k : Nat) : Nat :=
  match k with
  | 0 => 0
  | 1 => 8
  | 2 => 16
  | _ => 24

def swlMask (k : Nat) : Word :=
  match k with
  | 0 => 0xFFFFFF00
  | 1 => 0xFFFF0000
  | 2 => 0xFF000000
  | _ => 0x00000000

def swlShift (k : Nat) : Nat :=
  match k with
  | 0 => 24
  | 1 => 16
  | 2 => 8
  | _ => 0

def swrMask (k : Nat) : Word :=
  match k with
  | 0 => 0x00000000
  | 1 => 0x000000FF
  | 2 => 0x0000FFFF
  | _ => 0x00FFFFFF

def swrShift (k : Nat) : Nat :=
  match k with
  | 0 => 0
  | 1 => 8
  | 2 => 16
  | _ => 24

/-- LWL's merge (R217). -/
def lwlMerge (k : Nat) (old w : Word) : Word := (old &&& lwlMask k) ||| (w <<< lwlShift k)

/-- LWR's merge (R218). -/
def lwrMerge (k : Nat) (old w : Word) : Word := (old &&& lwrMask k) ||| (w >>> lwrShift k)

/-- SWL's merge (R224): the word written. -/
def swlMerge (k : Nat) (w v : Word) : Word := (w &&& swlMask k) ||| (v >>> swlShift k)

/-- SWR's merge (R225): the word written. -/
def swrMerge (k : Nat) (w v : Word) : Word := (w &&& swrMask k) ||| (v <<< swrShift k)

end Sys2Proof.Machine
end

