-- ==== Sys2Proof/Machine/Hazard.lean ====
section
/-! DEFINITION. The load-use hazard of 70_reset_and_hazards.md R360: which registers an instruction reads and writes, when a
hazard occurs, and the lineage's path that skips a load (44_branch_jump.md R199). -/

namespace Sys2Proof.Machine

/-- Reads(I), the table of R360; register 0 is not counted by its users. -/
def regsRead (p : Params) : Instr → List Reg
  | .addi rs _ _ | .addiu rs _ _ | .slti rs _ _ | .sltiu rs _ _ | .andi rs _ _ | .ori rs _ _ | .xori rs _ _ | .mthi rs
  | .mtlo rs | .jr rs | .jalr rs _ | .blez rs _ | .bgtz rs _ | .bltz rs _ | .bgez rs _ | .bltzal rs _ | .bgezal rs _ =>
    [rs]
  | .lui _ _ | .mfhi _ | .mflo _ | .j _ | .jal _ | .brk _ | .mfc0 _ _ | .cfc0 _ _ | .rfe =>
    []
  | .add rs rt _ | .addu rs rt _ | .sub rs rt _ | .subu rs rt _ | .and rs rt _ | .or rs rt _ | .xor rs rt _
  | .nor rs rt _ | .slt rs rt _ | .sltu rs rt _ | .sllv rs rt _ | .srlv rs rt _ | .srav rs rt _ | .mult rs rt
  | .multu rs rt | .div rs rt | .divu rs rt | .beq rs rt _ | .bne rs rt _ =>
    [rs, rt]
  | .sll rt _ _ | .srl rt _ _ | .sra rt _ _ | .mtc0 rt _ | .ctc0 rt _ =>
    [rt]
  | .lb base _ _ | .lbu base _ _ | .lh base _ _ | .lhu base _ _ | .lw base _ _ =>
    [base]
  | .lwl base rt _ | .lwr base rt _ | .sb base rt _ | .sh base rt _ | .sw base rt _ | .swl base rt _ | .swr base rt _ =>
    [base, rt]
  | .syscall _ =>
    if p.firmware = .hle then [4] else []

/-- The general register an instruction writes itself, if any (its destination, or the link register). -/
def regWritten : Instr → Option Reg
  | .addi _ rt _ | .addiu _ rt _ | .slti _ rt _ | .sltiu _ rt _ | .andi _ rt _ | .ori _ rt _ | .xori _ rt _
  | .lui rt _ | .lb _ rt _ | .lbu _ rt _ | .lh _ rt _ | .lhu _ rt _ | .lw _ rt _ | .lwl _ rt _ | .lwr _ rt _
  | .mfc0 rt _ | .cfc0 rt _ =>
    some rt
  | .add _ _ rd | .addu _ _ rd | .sub _ _ rd | .subu _ _ rd | .and _ _ rd | .or _ _ rd | .xor _ _ rd | .nor _ _ rd
  | .slt _ _ rd | .sltu _ _ rd | .sll _ rd _ | .srl _ rd _ | .sra _ rd _ | .sllv _ _ rd | .srlv _ _ rd | .srav _ _ rd
  | .mfhi rd | .mflo rd | .jalr _ rd =>
    some rd
  | .mult _ _ | .multu _ _ | .div _ _ | .divu _ _ | .mthi _ | .mtlo _ | .j _ | .jr _ | .beq _ _ _ | .bne _ _ _
  | .blez _ _ | .bgtz _ _ | .bltz _ _ | .bgez _ _ | .sb _ _ _ | .sh _ _ _ | .sw _ _ _ | .swl _ _ _ | .swr _ _ _
  | .syscall _ | .brk _ | .mtc0 _ _ | .ctc0 _ _ | .rfe =>
    none
  | .jal _ | .bltzal _ _ | .bgezal _ _ =>
    some 31

/-- LWL and LWR with this destination: the pairing of 45_load_store.md R219. -/
def mergesInto (r : Reg) : Instr → Bool
  | .lwl _ rt _ | .lwr _ rt _ => rt == r
  | _ => false

/-- R360: `n`, executed right after a load with destination `r` (merging when that load is LWL or LWR), collides with it. -/
def isHazard (p : Params) (r : Reg) (merging : Bool) (n : Instr) : Bool :=
  r != 0#5 && (regsRead p n).contains r && !(merging && mergesInto r n)

/-- The third path of R199: under LOAD_DELAY_POLICY = lineage a load into `r` in the slot of a taken transfer is skipped
entirely when the first instruction at the target both reads and writes `r`. That instruction is the one the next step runs: it is
read from the state that the evaluation ending this step leaves, and where that evaluation takes an interrupt there is no hazard
and no skip, because a trap entry lies between (R360; log 10). DESIGN CHOICE (log 22): BLTZAL and BGEZAL with rs = 31 count as
writing r = 31 here whether or not they will be taken, also under LINK_WHEN_NOT_TAKEN = false, which R199 leaves open. -/
def State.lineageSkips (s : State) (r : Reg) (merging : Bool) : Bool :=
  match s.params.loadDelay, s.ctx.consumed with
  | .lineage, .taken t =>
    let e := s.catchUp
    !e.interruptCondition && match decode (e.fetch t) with
    | .instr n => wordAligned t && isHazard s.params r merging n && regWritten n == some r
    | .noOp _ => false
  | _, _ => false

/-- A load-class instruction writes its destination within its own step (45_load_store.md R211) and leaves the record of
R360 for the next one. A load into register 0 leaves none. -/
def State.finishLoad (s : State) (rt : Reg) (v : Word) (merging : Bool) : State :=
  (s.writeReg rt v).setLoadDelay
    (if rt = 0#5 then none
     else some ⟨rt, s.readReg rt, merging, slotTaken s.ctx.consumed⟩)

end Sys2Proof.Machine
end

