-- ==== Sys2Proof/Machine/LoadStore.lean ====
section
/-! DEFINITION. The meanings of 45_load_store.md (R210 to R225). -/

namespace Sys2Proof.Machine

/-- How a data access of a width at an address goes ahead (20_memory.md R77). -/
inductive AccessKind where
  /-- Naturally aligned: through the bus primitives. -/
  | aligned
  /-- Misaligned under policy address-error. -/
  | addressError
  /-- Misaligned under policy bytewise: raw, inside the resolved store. -/
  | bytewise
  /-- No meaning. -/
  | stop (r : Refusal)
  deriving DecidableEq, Repr

/-- A misaligned access under policy bytewise stays inside its store (R77). -/
def State.fitsStore (s : State) (a : Word) (w : Width) : Bool :=
  match s.resolve a with
  | none => true
  | some (st, off) => decide (off + widthBytes w ≤ st.size)

def State.accessKind (s : State) (a : Word) (w : Width) : AccessKind :=
  if alignedFor w a then .aligned
  else match s.params.misaligned with
    | .refuse => .stop .misalignedAccess
    | .addressError => .addressError
    | .bytewise => if s.fitsStore a w then .bytewise else .stop .accessPastStore

/-- A load of width `w` whose bytes `ext` turns into the register's value (R210, R211). A load that takes an address error is not
skipped: the trap entry lies between it and the instruction at the target (70_reset_and_hazards.md R360; log 10). -/
def State.loadInto (s : State) (base rt : Reg) (offset : Half) (w : Width) (ext : Word → Word) :
    Host.Outcome State Fault Refusal :=
  let a := s.effAddr base offset
  match s.accessKind a w, s.lineageSkips rt false with
  | .addressError, _ => .next (s.raiseAddress .adEL a)
  | _, true => .next s
  | .aligned, false => .next ((s.memRead a w).2.finishLoad rt (ext (s.memRead a w).1) false)
  | .bytewise, false => .next (s.finishLoad rt (ext (s.rawRead a w)) false)
  | .stop r, false => .refused r

/-- LWL and LWR (R217, R218): one aligned word, merged into the old register. -/
def State.loadMerge (s : State) (base rt : Reg) (offset : Half) (merge : Nat → Word → Word → Word) :
    Host.Outcome State Fault Refusal :=
  if s.lineageSkips rt true then .next s
  else
    let a := s.effAddr base offset
    let r := s.memRead (alignDown a) .word
    .next (r.2.finishLoad rt (merge (lowBits a) (s.readReg rt) r.1) true)

/-- A store of width `w` (R220). -/
def State.storeFrom (s : State) (base rt : Reg) (offset : Half) (w : Width) : Host.Outcome State Fault Refusal :=
  let a := s.effAddr base offset
  match s.accessKind a w with
  | .aligned => .next (s.memWrite a w (s.readReg rt))
  | .addressError => .next (s.raiseAddress .adES a)
  | .bytewise => .next (s.rawWrite a w (s.readReg rt))
  | .stop r => .refused r

/-- SWL and SWR (R224, R225): a read and a write of the whole aligned word through the bus. -/
def State.storeMerge (s : State) (base rt : Reg) (offset : Half) (merge : Nat → Word → Word → Word) :
    Host.Outcome State Fault Refusal :=
  let a := s.effAddr base offset
  let r := s.memRead (alignDown a) .word
  .next (r.2.memWrite (alignDown a) .word (merge (lowBits a) r.1 (s.readReg rt)))

/-- LB (R212). -/
def execLb (base rt : Reg) (offset : Half) (s : State) : Host.Outcome State Fault Refusal :=
  s.loadInto base rt offset .byte (fun v => sext8 (v.setWidth 8))

/-- LBU (R213). -/
def execLbu (base rt : Reg) (offset : Half) (s : State) : Host.Outcome State Fault Refusal :=
  s.loadInto base rt offset .byte (fun v => (v.setWidth 8).setWidth 32)

/-- LH (R214). -/
def execLh (base rt : Reg) (offset : Half) (s : State) : Host.Outcome State Fault Refusal :=
  s.loadInto base rt offset .half (fun v => sext16 (v.setWidth 16))

/-- LHU (R215). -/
def execLhu (base rt : Reg) (offset : Half) (s : State) : Host.Outcome State Fault Refusal :=
  s.loadInto base rt offset .half (fun v => zext16 (v.setWidth 16))

/-- LW (R216). -/
def execLw (base rt : Reg) (offset : Half) (s : State) : Host.Outcome State Fault Refusal :=
  s.loadInto base rt offset .word id

/-- LWL (R217). -/
def execLwl (base rt : Reg) (offset : Half) (s : State) : Host.Outcome State Fault Refusal :=
  s.loadMerge base rt offset lwlMerge

/-- LWR (R218). -/
def execLwr (base rt : Reg) (offset : Half) (s : State) : Host.Outcome State Fault Refusal :=
  s.loadMerge base rt offset lwrMerge

/-- SB (R221). -/
def execSb (base rt : Reg) (offset : Half) (s : State) : Host.Outcome State Fault Refusal := s.storeFrom base rt offset .byte

/-- SH (R222). -/
def execSh (base rt : Reg) (offset : Half) (s : State) : Host.Outcome State Fault Refusal := s.storeFrom base rt offset .half

/-- SW (R223). -/
def execSw (base rt : Reg) (offset : Half) (s : State) : Host.Outcome State Fault Refusal := s.storeFrom base rt offset .word

/-- SWL (R224). -/
def execSwl (base rt : Reg) (offset : Half) (s : State) : Host.Outcome State Fault Refusal :=
  s.storeMerge base rt offset swlMerge

/-- SWR (R225). -/
def execSwr (base rt : Reg) (offset : Half) (s : State) : Host.Outcome State Fault Refusal :=
  s.storeMerge base rt offset swrMerge

end Sys2Proof.Machine
end

