-- ==== Sys2Proof/Machine/System.lean ====
section
/-! DEFINITION. The meanings of 46_system_cop0.md (R230 to R240). None of these instructions is privileged (R280). -/

namespace Sys2Proof.Machine

/-- SYSCALL (R231). The code field is not examined. -/
def execSyscall (_code : BitVec 20) (s : State) : Host.Outcome State Fault Refusal := .next (s.raiseHere .syscall)

/-- BREAK (R232): a trap, or a no-op when BREAK_TRAPS is false. -/
def execBreak (_code : BitVec 20) (s : State) : Host.Outcome State Fault Refusal :=
  if s.params.breakTraps then .next (s.raiseHere .breakpoint) else .next s

/-- A move from Coprocessor 0, a load-class instruction (R233). -/
def State.moveFromCop0 (s : State) (rt rd : Reg) : Host.Outcome State Fault Refusal :=
  if s.lineageSkips rt false then .next s else .next (s.finishLoad rt (s.readCop0 rd) false)

/-- A move to Coprocessor 0 (R235). -/
def State.moveToCop0 (s : State) (rt rd : Reg) : Host.Outcome State Fault Refusal :=
  .next (s.writeCop0 rd (s.readReg rt))

/-- MFC0 (R233). -/
def execMfc0 (rt rd : Reg) (s : State) : Host.Outcome State Fault Refusal := s.moveFromCop0 rt rd

/-- CFC0 (R234): the same register file as MFC0. -/
def execCfc0 (rt rd : Reg) (s : State) : Host.Outcome State Fault Refusal := s.moveFromCop0 rt rd

/-- MTC0 (R235). -/
def execMtc0 (rt rd : Reg) (s : State) : Host.Outcome State Fault Refusal := s.moveToCop0 rt rd

/-- CTC0 (R236): the same register file as MTC0. -/
def execCtc0 (rt rd : Reg) (s : State) : Host.Outcome State Fault Refusal := s.moveToCop0 rt rd

/-- RFE (R237): the Status stack is popped; pc is not changed. -/
def execRfe (s : State) : Host.Outcome State Fault Refusal := .next s.rfe

/-- A no-op encoding (30_encoding.md R110; R240): nothing beyond what every step does. -/
def execNoOp (_why : NoOp) (s : State) : Host.Outcome State Fault Refusal := .next s

end Sys2Proof.Machine
end

