-- ==== Sys2Proof/Machine/Cycle.lean ====
section
/-! DEFINITION. The parts of a step around `exec` (00_scope.md R12): fetching, the load-delay policy
(70_reset_and_hazards.md R360), completing a transfer, and evaluating at the end. -/

namespace Sys2Proof.Machine

/-- Apply `f` to a next state; stops stay as they are. -/
def onNext (f : State → State) : Host.Outcome State Fault Refusal → Host.Outcome State Fault Refusal
  | .next s => .next (f s)
  | .fault r => .fault r
  | .refused r => .refused r

/-- The first lines of R12 with the fetched word: code, pc and cycle advance, and the slot state is taken and cleared. -/
def State.startStep (s : State) (w : Word) : State :=
  { s with
    code := w
    pc := s.pc + 4
    cycle := s.cycle + 1
    slot := .none
    ctx := ⟨s.slot, false, none⟩
    loadDelay := none }

/-- What the fetch stage finds. -/
inductive Fetched where
  | stop (f : Fault)
  | trap (t : State)
  | noOp (why : NoOp) (t : State)
  | run (i : Instr) (t : State)
  deriving DecidableEq, Repr

/-- Fetch and decode (R12, R80, R104). A misaligned pc has no meaning (R25) unless MISALIGNED_POLICY is address-error, which
raises AdEL before anything is decoded (60_exceptions.md R265); `code` then keeps its value (log 3). -/
def State.fetchStage (s : State) : Fetched :=
  if wordAligned s.pc then
    match decode (s.fetch s.pc) with
    | .instr i => .run i (s.startStep (s.fetch s.pc))
    | .noOp why => .noOp why (s.startStep (s.fetch s.pc))
  else
    match s.params.misaligned with
    | .addressError => .trap ((s.startStep s.code).raiseAddress .adEL s.pc)
    | _ => .stop .unalignedFetch

/-- What the load of the step before means for this instruction. -/
inductive LoadStage where
  | plain
  | delayed (d : LoadDelay)
  | stop (r : Refusal)
  deriving DecidableEq, Repr

/-- LOAD_DELAY_POLICY at instruction `i` (R360); `s` is the state before the step. -/
def State.loadStage (s : State) (i : Instr) : LoadStage :=
  match s.loadDelay with
  | none => .plain
  | some d =>
    if isHazard s.params d.reg d.merging i then
      match s.params.loadDelay with
      | .refuseOnUse => .stop .loadUseHazard
      | .immediate => .plain
      | .lineage => if d.inTakenSlot then .delayed d else .plain
      | .hardware => .delayed d
    else .plain

/-- The state in which an instruction executes while the load `d` of the step before is held back from it: the register holds
the value before the load (R360, policy hardware; 44_branch_jump.md R199, the read path). -/
def State.holdBack (s : State) (d : LoadDelay) : State :=
  (s.writeReg d.reg d.before).setHeld (some ⟨d.reg, s.readReg d.reg⟩)

/-- Instruction `i`, which ended without an exception in `t`, wrote `r` itself; a linking branch that was not taken writes its
link only under LINK_WHEN_NOT_TAKEN (log 11). -/
def State.wrote (t : State) (i : Instr) (r : Reg) : Bool :=
  regWritten i == some r &&
    (match i with
     | .bltzal _ _ | .bgezal _ _ => t.params.linkWhenNotTaken || t.slot != .notTaken
     | _ => true)

/-- After instruction `i` a load still held back lands, unless `i` wrote the register itself (R360, R199). Where `i` trapped the
load has landed already, at the trap entry (60_exceptions.md R253). -/
def State.settleLoad (u : State) (i : Instr) : State :=
  match u.ctx.held with
  | none => u
  | some h => if u.wrote i h.reg then u.setHeld none else u.landHeld

/-- R12: the pending transfer completes, unless an exception was raised. -/
def State.completeTransfer (s : State) : State :=
  if s.ctx.trapped then s
  else match s.ctx.consumed with
    | .taken t => s.setPc t
    | _ => s

/-- The last lines of R12: the transfer, the evaluation, and the end of the step's own variables. -/
def State.endStep (s : State) : State :=
  let t := s.completeTransfer
  (if evaluationPoint t.params.evalEvery t.ctx.consumed t.slot then t.evaluate else t).endCtx

/-- `Step()` of R12 around `run`, the execution of one instruction: fetch, the load-delay policy, execution, and the end of the
step. -/
def State.stepWith (run : Instr → State → Host.Outcome State Fault Refusal) (s : State) :
    Host.Outcome State Fault Refusal :=
  match s.fetchStage with
  | .stop f => .fault f
  | .trap t => .next t.endStep
  | .noOp why t => onNext State.endStep (execNoOp why t)
  | .run i t =>
    match s.loadStage i with
    | .stop r => .refused r
    | .plain => onNext State.endStep (run i t)
    | .delayed d => onNext (fun u => (u.settleLoad i).endStep) (run i (t.holdBack d))

/-- The word stored where the next step fetches. A pc from which nothing can be fetched is first moved to the reset vector. -/
def State.placeFetchWord (s : State) (w : Word) : State :=
  let t := if wordAligned s.pc && (s.resolve s.pc).isSome then s else s.setPc resetPc
  t.rawWrite t.pc .word w

end Sys2Proof.Machine
end

