-- ==== Sys2Proof/Machine/AluImmediate.lean ====
section
/-! DEFINITION. The meanings of 40_alu_immediate.md (R130 to R138). -/

namespace Sys2Proof.Machine

/-- A result in its destination register; nothing else changes (R130, R140, R155). -/
def State.result (s : State) (rd : Reg) (v : Word) : Host.Outcome State Fault Refusal := .next (s.writeReg rd v)

/-- A result that traps instead when `ovf` holds and OVERFLOW_TRAPS is set (R131, R141, R143): the destination is then not
written. DESIGN CHOICE (log 21): it traps also where the destination is register 0, which the spec leaves open: R130 and
30_encoding.md R111 call such an instruction one without effect, R131, R141 and R143 make no exception for it. -/
def State.resultOrOverflow (s : State) (rd : Reg) (v : Word) (ovf : Bool) : Host.Outcome State Fault Refusal :=
  if s.params.overflowTraps && ovf then .next (s.raiseHere .overflow) else s.result rd v

/-- ADDI (R131). -/
def execAddi (rs rt : Reg) (imm : Half) (s : State) : Host.Outcome State Fault Refusal :=
  s.resultOrOverflow rt (s.readReg rs + sext16 imm) (addOverflows (s.readReg rs) (sext16 imm))

/-- ADDIU (R132). -/
def execAddiu (rs rt : Reg) (imm : Half) (s : State) : Host.Outcome State Fault Refusal :=
  s.result rt (s.readReg rs + sext16 imm)

/-- SLTI (R133). -/
def execSlti (rs rt : Reg) (imm : Half) (s : State) : Host.Outcome State Fault Refusal :=
  s.result rt (boolWord (lessSigned (s.readReg rs) (sext16 imm)))

/-- SLTIU (R134): the immediate is sign-extended, then compared unsigned. -/
def execSltiu (rs rt : Reg) (imm : Half) (s : State) : Host.Outcome State Fault Refusal :=
  s.result rt (boolWord (lessUnsigned (s.readReg rs) (sext16 imm)))

/-- ANDI (R135). -/
def execAndi (rs rt : Reg) (imm : Half) (s : State) : Host.Outcome State Fault Refusal :=
  s.result rt (s.readReg rs &&& zext16 imm)

/-- ORI (R136). -/
def execOri (rs rt : Reg) (imm : Half) (s : State) : Host.Outcome State Fault Refusal :=
  s.result rt (s.readReg rs ||| zext16 imm)

/-- XORI (R137). -/
def execXori (rs rt : Reg) (imm : Half) (s : State) : Host.Outcome State Fault Refusal :=
  s.result rt (s.readReg rs ^^^ zext16 imm)

/-- LUI (R138). -/
def execLui (rt : Reg) (imm : Half) (s : State) : Host.Outcome State Fault Refusal := s.result rt (upperImm imm)

end Sys2Proof.Machine
end

