-- ==== Sys2Proof/Machine/AluRegister.lean ====
section
/-! DEFINITION. The meanings of 41_alu_register.md (R140 to R150). -/

namespace Sys2Proof.Machine

/-- ADD (R141). -/
def execAdd (rs rt rd : Reg) (s : State) : Host.Outcome State Fault Refusal :=
  s.resultOrOverflow rd (s.readReg rs + s.readReg rt) (addOverflows (s.readReg rs) (s.readReg rt))

/-- ADDU (R142). -/
def execAddu (rs rt rd : Reg) (s : State) : Host.Outcome State Fault Refusal :=
  s.result rd (s.readReg rs + s.readReg rt)

/-- SUB (R143). -/
def execSub (rs rt rd : Reg) (s : State) : Host.Outcome State Fault Refusal :=
  s.resultOrOverflow rd (s.readReg rs - s.readReg rt) (subOverflows (s.readReg rs) (s.readReg rt))

/-- SUBU (R144). -/
def execSubu (rs rt rd : Reg) (s : State) : Host.Outcome State Fault Refusal :=
  s.result rd (s.readReg rs - s.readReg rt)

/-- AND (R145). -/
def execAnd (rs rt rd : Reg) (s : State) : Host.Outcome State Fault Refusal :=
  s.result rd (s.readReg rs &&& s.readReg rt)

/-- OR (R146). -/
def execOr (rs rt rd : Reg) (s : State) : Host.Outcome State Fault Refusal :=
  s.result rd (s.readReg rs ||| s.readReg rt)

/-- XOR (R147). -/
def execXor (rs rt rd : Reg) (s : State) : Host.Outcome State Fault Refusal :=
  s.result rd (s.readReg rs ^^^ s.readReg rt)

/-- NOR (R148). -/
def execNor (rs rt rd : Reg) (s : State) : Host.Outcome State Fault Refusal :=
  s.result rd (~~~(s.readReg rs ||| s.readReg rt))

/-- SLT (R149). -/
def execSlt (rs rt rd : Reg) (s : State) : Host.Outcome State Fault Refusal :=
  s.result rd (boolWord (lessSigned (s.readReg rs) (s.readReg rt)))

/-- SLTU (R150). -/
def execSltu (rs rt rd : Reg) (s : State) : Host.Outcome State Fault Refusal :=
  s.result rd (boolWord (lessUnsigned (s.readReg rs) (s.readReg rt)))

end Sys2Proof.Machine
end

