-- ==== Sys2Proof/Machine/Branch.lean ====
section
/-! DEFINITION. The meanings of 44_branch_jump.md (R180 to R195). Condition, target and link value are computed from the
registers as the transfer finds them (R182); the transfer writes `slot`, not pc (R181). -/

namespace Sys2Proof.Machine

/-- The slot state a conditional branch leaves (R187). -/
def State.branchSlot (s : State) (cond : Bool) (imm : Half) : Slot :=
  if cond then .taken (s.branchTarget imm) else .notTaken

/-- A conditional branch without link (R187). -/
def State.branchIf (s : State) (cond : Bool) (imm : Half) : Host.Outcome State Fault Refusal :=
  s.transfer (s.branchSlot cond imm)

/-- A transfer that also writes the link value to `r` (R184, R186). -/
def State.transferLink (s : State) (r : Reg) (d : Slot) : Host.Outcome State Fault Refusal :=
  (s.writeReg r s.linkValue).transfer d

/-- A conditional branch with link in register 31 (R194, R195): the link is written also when the branch is not taken, unless
LINK_WHEN_NOT_TAKEN is false. -/
def State.branchLinkIf (s : State) (cond : Bool) (imm : Half) : Host.Outcome State Fault Refusal :=
  if cond || s.params.linkWhenNotTaken then s.transferLink 31 (s.branchSlot cond imm) else s.branchIf cond imm

/-- Bit 31, the sign (R190 to R195). -/
def isNegative (v : Word) : Bool := decide (v.toInt < 0)

/-- J (R183). -/
def execJ (target : BitVec 26) (s : State) : Host.Outcome State Fault Refusal := s.transfer (.taken (s.jumpTarget target))

/-- JAL (R184). -/
def execJal (target : BitVec 26) (s : State) : Host.Outcome State Fault Refusal :=
  s.transferLink 31 (.taken (s.jumpTarget target))

/-- JR (R185). -/
def execJr (rs : Reg) (s : State) : Host.Outcome State Fault Refusal := s.transfer (.taken (s.readReg rs))

/-- JALR (R186): the target is read before the link is written. -/
def execJalr (rs rd : Reg) (s : State) : Host.Outcome State Fault Refusal := s.transferLink rd (.taken (s.readReg rs))

/-- BEQ (R188). -/
def execBeq (rs rt : Reg) (imm : Half) (s : State) : Host.Outcome State Fault Refusal :=
  s.branchIf (s.readReg rs == s.readReg rt) imm

/-- BNE (R189). -/
def execBne (rs rt : Reg) (imm : Half) (s : State) : Host.Outcome State Fault Refusal :=
  s.branchIf (s.readReg rs != s.readReg rt) imm

/-- BLEZ (R190). -/
def execBlez (rs : Reg) (imm : Half) (s : State) : Host.Outcome State Fault Refusal :=
  s.branchIf (isNegative (s.readReg rs) || s.readReg rs == 0#32) imm

/-- BGTZ (R191). -/
def execBgtz (rs : Reg) (imm : Half) (s : State) : Host.Outcome State Fault Refusal :=
  s.branchIf (!isNegative (s.readReg rs) && s.readReg rs != 0#32) imm

/-- BLTZ (R192). -/
def execBltz (rs : Reg) (imm : Half) (s : State) : Host.Outcome State Fault Refusal :=
  s.branchIf (isNegative (s.readReg rs)) imm

/-- BGEZ (R193). -/
def execBgez (rs : Reg) (imm : Half) (s : State) : Host.Outcome State Fault Refusal :=
  s.branchIf (!isNegative (s.readReg rs)) imm

/-- BLTZAL (R194): the condition is read before the link is written. -/
def execBltzal (rs : Reg) (imm : Half) (s : State) : Host.Outcome State Fault Refusal :=
  s.branchLinkIf (isNegative (s.readReg rs)) imm

/-- BGEZAL (R195). -/
def execBgezal (rs : Reg) (imm : Half) (s : State) : Host.Outcome State Fault Refusal :=
  s.branchLinkIf (!isNegative (s.readReg rs)) imm

end Sys2Proof.Machine
end

