-- ==== Sys2Proof/Machine/MulDiv.lean ====
section
/-! DEFINITION. The meanings of 43_muldiv.md (R165 to R173). -/

namespace Sys2Proof.Machine

/-- HI and LO written together (R165). -/
def State.setHiLo (s : State) (h l : Word) : State := (s.setHi h).setLo l

/-- MULT (R166). -/
def execMult (rs rt : Reg) (s : State) : Host.Outcome State Fault Refusal :=
  let p := mulSigned (s.readReg rs) (s.readReg rt)
  .next (s.setHiLo (hiHalf p) (loHalf p))

/-- MULTU (R167). -/
def execMultu (rs rt : Reg) (s : State) : Host.Outcome State Fault Refusal :=
  let p := mulUnsigned (s.readReg rs) (s.readReg rt)
  .next (s.setHiLo (hiHalf p) (loHalf p))

/-- DIV (R168): a divisor of 0 leaves HI and LO as they were. -/
def execDiv (rs rt : Reg) (s : State) : Host.Outcome State Fault Refusal :=
  if s.readReg rt = 0#32 then .next s
  else .next (s.setHiLo (remSigned (s.readReg rs) (s.readReg rt)) (quotSigned (s.readReg rs) (s.readReg rt)))

/-- DIVU (R169): a divisor of 0 leaves HI and LO as they were. -/
def execDivu (rs rt : Reg) (s : State) : Host.Outcome State Fault Refusal :=
  if s.readReg rt = 0#32 then .next s
  else .next (s.setHiLo (remUnsigned (s.readReg rs) (s.readReg rt)) (quotUnsigned (s.readReg rs) (s.readReg rt)))

/-- MFHI (R170). -/
def execMfhi (rd : Reg) (s : State) : Host.Outcome State Fault Refusal := s.result rd s.hi

/-- MFLO (R171). -/
def execMflo (rd : Reg) (s : State) : Host.Outcome State Fault Refusal := s.result rd s.lo

/-- MTHI (R172). -/
def execMthi (rs : Reg) (s : State) : Host.Outcome State Fault Refusal := .next (s.setHi (s.readReg rs))

/-- MTLO (R173). -/
def execMtlo (rs : Reg) (s : State) : Host.Outcome State Fault Refusal := .next (s.setLo (s.readReg rs))

end Sys2Proof.Machine
end

