-- ==== Sys2Proof/Machine/Shift.lean ====
section
/-! DEFINITION. The meanings of 42_shift.md (R155 to R161). -/

namespace Sys2Proof.Machine

/-- SLL (R156). The word 0x00000000, `sll $0,$0,0`, is the canonical nop. -/
def execSll (rt rd : Reg) (shamt : BitVec 5) (s : State) : Host.Outcome State Fault Refusal :=
  s.result rd (s.readReg rt <<< shamt.toNat)

/-- SRL (R157). -/
def execSrl (rt rd : Reg) (shamt : BitVec 5) (s : State) : Host.Outcome State Fault Refusal :=
  s.result rd (s.readReg rt >>> shamt.toNat)

/-- SRA (R158). -/
def execSra (rt rd : Reg) (shamt : BitVec 5) (s : State) : Host.Outcome State Fault Refusal :=
  s.result rd ((s.readReg rt).sshiftRight shamt.toNat)

/-- SLLV (R159). -/
def execSllv (rs rt rd : Reg) (s : State) : Host.Outcome State Fault Refusal :=
  s.result rd (s.readReg rt <<< shiftAmount (s.readReg rs))

/-- SRLV (R160). -/
def execSrlv (rs rt rd : Reg) (s : State) : Host.Outcome State Fault Refusal :=
  s.result rd (s.readReg rt >>> shiftAmount (s.readReg rs))

/-- SRAV (R161). -/
def execSrav (rs rt rd : Reg) (s : State) : Host.Outcome State Fault Refusal :=
  s.result rd ((s.readReg rt).sshiftRight (shiftAmount (s.readReg rs)))

end Sys2Proof.Machine
end

