-- ==== Sys2Proof/Machine/Step.lean ====
section
/-! DEFINITION. One step of the core (00_scope.md R12). -/

namespace Sys2Proof.Machine

/-- `Step()` (R12): a next state, a fault or a refusal. -/
def step (s : State) : Host.Outcome State Fault Refusal := s.stepWith exec

/-- The host's hook: `s` with the instruction `w` of `nbits` bits stored where `step` fetches next (log 15). -/
def State.withFetchWord (s : State) (nbits w : Nat) : State := s.placeFetchWord (BitVec.ofNat 32 (w % 2 ^ nbits))

end Sys2Proof.Machine
end

