-- ==== Sys2Proof/Machine/HostCalls.lean ====
section
/-! DEFINITION. The host's calls (70_reset_and_hazards.md R340 to R355), which act between steps. `shutdown` has no
architectural effect (R351). -/

namespace Sys2Proof.Machine

/-- ROM_IMAGE as a byte list from offset 0 (R342), in the stores' canonical form; bytes past the ROM's end reach nothing. -/
def romCells (image : List Byte) : List Host.Cell :=
  ((image.zipIdx.foldl (fun (m : Memory) b => m.setByte .rom b.2 b.1) ⟨[], [], [], []⟩)).rom

/-- `reset()` (R340): nothing of the state before survives (R341) but the parameters, which are no state. -/
def State.hostReset (s : State) (status : Word) (romImage : List Byte) : State :=
  State.resetWith s.params status (romCells romImage)

/-- `init()` (R351): a new instance, in the reset state. -/
def State.hostInit (p : Params) (status : Word) (romImage : List Byte) : State :=
  State.resetWith p status (romCells romImage)

/-- `loadImage(guestAddr, length, hostBytes)` (R352, R353): a raw copy, each byte resolved separately. -/
def State.loadImage (s : State) (a : Word) : List Byte → State
  | [] => s
  | b :: rest => (s.rawWrite a .byte (b.setWidth 32)).loadImage (a + 1) rest

/-- `launch(entry, sp, gp)` (R345, D38): it writes pc, x[29], x[28] and slot alone. DESIGN CHOICE (log 24): the load record of the
last step stays, as R345 and R360 do not say what becomes of it, so that the first instruction at `entry` can meet a load-use
hazard with a load from before the launch. -/
def State.launch (s : State) (entry sp gp : Word) : State :=
  (((s.setPc entry).writeReg 29 sp).writeReg 28 gp).setSlot .none

/-- `runUntil(targetPC)` (R354), with the step bound that the rule asks a model to give it; `none` when the bound is used up. -/
def State.runUntil (target : Word) : Nat → State → Option (Host.Outcome State Fault Refusal)
  | fuel, s =>
    if s.pc = target then some (.next s)
    else match fuel with
      | 0 => none
      | n + 1 =>
        match step s with
        | .next t => State.runUntil target n t
        | .fault f => some (.fault f)
        | .refused r => some (.refused r)

/-- `stepCycles(n)` (R355): since every step adds 1 to `cycle`, exactly n steps. -/
def State.stepCycles : Nat → State → Host.Outcome State Fault Refusal
  | 0, s => .next s
  | n + 1, s =>
    match step s with
    | .next t => State.stepCycles n t
    | .fault f => .fault f
    | .refused r => .refused r

end Sys2Proof.Machine
end

