-- ==== Sys2Proof/Safety.lean ====
section
/-! DEFINITION. What statements are made of: the machine's invariant, the frames of an instruction, and what a stop is. -/

namespace Sys2Proof

/-! ## Control transfers and loads -/

/-- The instructions of 44_branch_jump.md. -/
def Instr.isTransfer : Instr → Bool
  | .j _ | .jal _ | .jr _ | .jalr _ _ | .beq _ _ _ | .bne _ _ _ | .blez _ _ | .bgtz _ _ | .bltz _ _ | .bgez _ _
  | .bltzal _ _ | .bgezal _ _ => true
  | _ => false

/-- The accesses whose width asks for alignment (20_memory.md R77): width, base and offset. -/
def Instr.alignedAccess : Instr → Option (Width × Reg × Half)
  | .lh b _ o | .lhu b _ o | .sh b _ o => some (.half, b, o)
  | .lw b _ o | .sw b _ o => some (.word, b, o)
  | _ => none

/-- The load-class instructions (70_reset_and_hazards.md R360): destination, and whether it is LWL or LWR. -/
def Instr.loads : Instr → Option (Reg × Bool)
  | .lb _ rt _ | .lbu _ rt _ | .lh _ rt _ | .lhu _ rt _ | .lw _ rt _ | .mfc0 rt _ | .cfc0 rt _ => some (rt, false)
  | .lwl _ rt _ | .lwr _ rt _ => some (rt, true)
  | _ => none

end Sys2Proof

namespace Sys2Proof.Machine

/-! ## The invariant -/

/-- The I_STAT bit of a counter (60_exceptions.md R315). -/
def counterBit (i : Fin 4) : Word := if i = 0 then 0x10 else if i = 1 then 0x20 else if i = 2 then 0x40 else 0x01

/-- A counter record that the machine can reach: 16-bit count and target, the rate its mode selects (R312), its own interrupt
bit (R315), and for the frame timer the fixed record of R321. -/
def counterOk (i : Fin 4) (c : Counter) : Prop :=
  c.count.toNat < 0x10000 ∧ c.target.toNat < 0x10000 ∧ c.rate = rateFor i c.mode ∧ c.interrupt = counterBit i ∧
    (i = 3 → c = { Counter.frameAtReset with sCycle := c.sCycle })

/-- The invariant between steps: memory is in canonical form, entry 0 of the register file holds 0, no instruction is
executing, the counters are as `counterOk` says, a recorded load never has register 0 as destination, and a delay slot is
always fetched from an aligned address. -/
structure State.Inv (s : State) : Prop where
  memWf       : s.mem.wf = true
  zeroReg     : s.gpr[0] = 0#32
  idle        : s.ctx = StepCtx.idle
  counters    : ∀ i : Fin 4, counterOk i s.ctr[i]
  loadDelay   : ∀ d, s.loadDelay = some d → d.reg ≠ 0#5
  slotAligned : s.slot ≠ .none → wordAligned s.pc = true

/-! ## Encoding: what the decoder answers on every word with these key fields (30_encoding.md R102 to R108) -/

/-- Every word with this op decodes to `f` of it. -/
def PrimaryEntry (op : BitVec 6) (f : Word → Instr) : Prop := ∀ w, opOf w = op → decode w = .instr (f w)

/-- Every word with op 0 and this funct decodes to `f` of it. -/
def SpecialEntry (funct : BitVec 6) (f : Word → Instr) : Prop :=
  ∀ w, opOf w = 0#6 → functOf w = funct → decode w = .instr (f w)

/-- Every word with op 1 and this rt decodes to `f` of it. -/
def RegimmEntry (rt : BitVec 5) (f : Word → Instr) : Prop :=
  ∀ w, opOf w = 1#6 → rtOf w = rt → decode w = .instr (f w)

/-- Every word with op 16 and this rs decodes to `f` of it. -/
def Cop0Entry (rs : BitVec 5) (f : Word → Instr) : Prop :=
  ∀ w, opOf w = 16#6 → rsOf w = rs → decode w = .instr (f w)

/-- The three-register form, `op rd, rs, rt`. -/
def formRRR (mk : Reg → Reg → Reg → Instr) (w : Word) : Instr := mk (rsOf w) (rtOf w) (rdOf w)

/-- The immediate form, `op rt, rs, imm`, also of loads, stores and two-register branches. -/
def formRRI (mk : Reg → Reg → Half → Instr) (w : Word) : Instr := mk (rsOf w) (rtOf w) (immOf w)

/-! ## Frames: `t` is `s` but for what the name says. Registers are compared as the machine reads them, memory byte by byte -/

/-- General register `rd` holds `v` (nothing is written when `rd` is 0); everything else is as it was. -/
def OnlyReg (s t : State) (rd : Reg) (v : Word) : Prop :=
  (∀ r, t.readReg r = if r = rd ∧ r ≠ 0#5 then v else s.readReg r) ∧ t = { s with gpr := t.gpr }

/-- The same for a load-class instruction, which also leaves the record of 70_reset_and_hazards.md R360 (`merging` for LWL
and LWR); a load into register 0 leaves none. `calls` are the calls the SPU has received then. -/
def OnlyLoad (s t : State) (rd : Reg) (v : Word) (merging : Bool) (calls : List SpuCall) : Prop :=
  (∀ r, t.readReg r = if r = rd ∧ r ≠ 0#5 then v else s.readReg r) ∧
    t = { s with
      gpr := t.gpr
      spuCalls := calls
      loadDelay := if rd = 0#5 then none else some ⟨rd, s.readReg rd, merging, slotTaken s.ctx.consumed⟩ }

/-- Store `st` holds byte `f k` at offset `off + k` for k < n; every other byte of memory, and everything else, is as it was. -/
def OnlyBytes (s t : State) (st : Store) (off n : Nat) (f : Nat → Byte) : Prop :=
  (∀ st' off', t.mem.byte st' off' =
      if st' = st ∧ off ≤ off' ∧ off' < off + n then f (off' - off) else s.mem.byte st' off') ∧
    t = { s with mem := t.mem }

/-! ## Traps and evaluations -/

/-- `t` is `s` after a trap entry with exception code `code` (60_exceptions.md R262 to R264) and no firmware agent: Cause, EPC,
the pushed Status and pc are as those rules say, no transfer and no load is pending; a load that LOAD_DELAY_POLICY held back from
the trapped instruction has landed (R253), and everything else is as it was. -/
structure TrapEntered (s t : State) (code : Nat) (isInterrupt bd : Bool) (resume : Word) : Prop where
  cause  : t.readCop0 causeReg =
    BitVec.ofNat 32 (4 * code + (if isInterrupt then 0x400 else 0) + (if bd then 0x80000000 else 0))
  epc    : t.readCop0 epcReg = if bd then resume - 4 else resume
  status : ∀ k, (t.readCop0 statusReg).getLsbD k =
    if k < 2 then false
    else if k < 6 then (s.readCop0 statusReg).getLsbD (k - 2)
    else (s.readCop0 statusReg).getLsbD k
  pc     : t.pc = if (s.readCop0 statusReg).getLsbD 22 then 0xBFC00180 else 0x80000080
  others : ∀ r, r ≠ causeReg → r ≠ epcReg → r ≠ statusReg → t.readCop0 r = s.readCop0 r
  regs   : ∀ r, t.readReg r = s.landHeld.readReg r
  frame  : t = { s with
    gpr := t.gpr, cop0 := t.cop0, pc := t.pc, slot := .none, loadDelay := none, ctx := ⟨s.ctx.consumed, true, none⟩ }
  noLoad : s.ctx.held = none → t.gpr = s.gpr

/-- An evaluation now would change nothing: no counter is due and the interrupt condition is false (R259, R260, R320). -/
def State.quiet (s : State) : Prop :=
  (∀ i : Fin 4, counterDue s.cycle s.ctr[i] = false) ∧ s.interruptCondition = false

/-! ## Steps -/

/-- The state in which the instruction fetched at `s.pc` runs: the first lines of 00_scope.md R12. -/
def State.executing (s : State) : State := s.startStep (s.fetch s.pc)

/-- No load-use hazard (70_reset_and_hazards.md R360) between the load of the step before, if any, and `i`. -/
def State.noHazard (s : State) (i : Instr) : Prop :=
  ∀ d, s.loadDelay = some d → isHazard s.params d.reg d.merging i = false

/-- A safe step: the machine goes on. -/
def State.goesOn (s : State) : Prop := ∃ t, step s = .next t

end Sys2Proof.Machine
end

