-- ==== Sys2Proof/Certificates/Slice0/Obligations.lean ====
section
/-! DEFINITION. The statements about the model, each from numbered rules of the spec. In those about `exec`, `s` is the state in
which an instruction executes: pc = ia + 4 and the slot state it consumed is in `ctx` (00_scope.md R12). -/

open Sys2Proof Sys2Proof.Machine

/-! ## Encoding -/

/-- 30_encoding.md R101, R105 to R108: no bit of any operand is lost between the encoder and the decoder. -/
def Obligations.DecodeOfEncode : Prop := ∀ i : Instr, decode (encode i) = .instr i

/-- One word of each family, written out from the example in its rule. -/
def Obligations.SampleWordsDecode : Prop :=
  decode 0x2128FFFF = .instr (.addi 9 8 0xFFFF) ∧ decode 0x3C081F80 = .instr (.lui 8 0x1F80) ∧
  decode 0x00851023 = .instr (.subu 4 5 2) ∧ decode 0x00094103 = .instr (.sra 9 8 4) ∧
  decode 0x01494004 = .instr (.sllv 10 9 8) ∧ decode 0x0085001A = .instr (.div 4 5) ∧
  decode 0x00800013 = .instr (.mtlo 4) ∧ decode 0x0C004000 = .instr (.jal 0x4000) ∧
  decode 0x0100F809 = .instr (.jalr 8 31) ∧ decode 0x1480FFFE = .instr (.bne 4 0 0xFFFE) ∧
  decode 0x04910001 = .instr (.bgezal 4 1) ∧ decode 0x8C880004 = .instr (.lw 4 8 4) ∧
  decode 0xB8880000 = .instr (.swr 4 8 0) ∧ decode 0x40886000 = .instr (.mtc0 8 12) ∧
  decode 0x42000010 = .instr .rfe ∧ decode 0x4A123456 = .noOp (.coprocessor 18)

/-- R102, R103: the key bits of the opcode table's rows, and nothing else, select the instruction; a word that no row selects
is a no-op encoding. -/
def Obligations.DecoderSelectsByKeyBits : Prop :=
  (∀ (w : Word) (i : Instr), i.row.selects w = true ↔ ∃ j, decode w = .instr j ∧ j.row = i.row) ∧
  ∀ w : Word, (∃ why, decode w = .noOp why) ↔ ∀ i : Instr, i.row.selects w = false

/-- R101 and 00_scope.md R9: every operand of the decoded instruction is the field of the word that the opcode table names. -/
def Obligations.DecoderReadsTheFields : Prop :=
  ∀ (w : Word) (i : Instr), decode w = .instr i →
    ∀ f ∈ i.fields, f.value = w.toNat / 2 ^ f.lo % 2 ^ f.width

/-- R110, 46_system_cop0.md R240: every word of COP1 to COP3, LWCz and SWCz decodes to a no-op; and a word that decodes to a no-op does what every step does and nothing else: code, pc and cycle
advance, a pending transfer completes, the evaluation point is reached. -/
def Obligations.NoOpEncodings : Prop :=
  (∀ w : Word, (17#6 ≤ opOf w ∧ opOf w ≤ 19#6) ∨ (48#6 ≤ opOf w ∧ opOf w ≤ 51#6) ∨ (56#6 ≤ opOf w ∧ opOf w ≤ 59#6) →
    ∃ why, decode w = .noOp why) ∧
  ∀ (s : State) (why : NoOp), wordAligned s.pc = true → decode (s.fetch s.pc) = .noOp why →
    step s = .next s.executing.endStep ∧
    (s.executing.quiet → step s = .next
      { s with
        code := s.fetch s.pc
        pc := (match s.slot with | .taken t => t | _ => s.pc + 4)
        cycle := s.cycle + 1
        slot := .none
        loadDelay := none
        ctx := StepCtx.idle })

/-! ## The step -/

/-- 00_scope.md R12: where the word at pc decodes to `i` and no load-use hazard stands in the way, the step is `exec i` on the
state with code, pc, cycle and slot advanced, and then, if that answers a next state, the end of the step; it stops as `exec`
stops. -/
def Obligations.StepRunsDecodedInstruction : Prop :=
  ∀ (s : State) (i : Instr), wordAligned s.pc = true → decode (s.fetch s.pc) = .instr i → s.noHazard i →
    (∀ u, exec i s.executing = .next u → step s = .next u.endStep) ∧
    (∀ r, exec i s.executing = .refused r → step s = .refused r) ∧
    s.executing =
      { s with
        code := s.fetch s.pc
        pc := s.pc + 4
        cycle := s.cycle + 1
        slot := .none
        loadDelay := none
        ctx := ⟨s.slot, false, none⟩ }

/-- 60_exceptions.md R258, 00_scope.md R12: when an evaluation point is reached; evaluation happens there and nowhere else, and
one with nothing due leaves only the completed transfer behind. -/
def Obligations.EndOfStep : Prop :=
  (∀ (every : Bool) (consumed left : Slot),
    evaluationPoint every consumed left = true ↔ left = .none ∧ ((∃ t, consumed = .taken t) ∨ every = true)) ∧
  (∀ u : State, u.endStep =
    if evaluationPoint u.params.evalEvery u.ctx.consumed u.slot then u.completeTransfer.evaluate.endCtx
    else u.completeTransfer.endCtx) ∧
  ∀ u : State, u.quiet → u.endStep =
    { u with
      pc := (if u.ctx.trapped then u.pc else match u.ctx.consumed with | .taken t => t | _ => u.pc)
      ctx := StepCtx.idle }

/-- 44_branch_jump.md R181, 10_state.md R24: the instruction after a transfer runs, and its step ends with pc at the target of
a taken transfer, or after itself behind a branch that was not taken; with an exception the transfer is discarded (R197). -/
def Obligations.DelaySlotCompletes : Prop :=
  ∀ (s u : State) (i : Instr), wordAligned s.pc = true → decode (s.fetch s.pc) = .instr i → s.noHazard i →
    s.slot ≠ .none → exec i s.executing = .next u → u.quiet →
    ∃ v, step s = .next v ∧ v.slot = .none ∧ v.gpr = u.gpr ∧ v.mem = u.mem ∧
      v.pc = if u.ctx.trapped then u.pc else match s.slot with | .taken t => t | _ => s.pc + 4

/-- 70_reset_and_hazards.md R360: what each LOAD_DELAY_POLICY does at a load-use hazard, when the instruction that uses the loaded
register executes. The model's choices: the load record is log 10 (DESIGN CHOICE); that a held-back load lands also when the
instruction trapped, at the trap entry (60_exceptions.md R253), and behind a linking branch whose link was left out, is log 11
(DEDUCED). Under lineage the load may have been skipped before, with no record left (44_branch_jump.md R199): that is
LineageSkipsLoads. -/
def Obligations.LoadUsePolicies : Prop :=
  ∀ (s : State) (i : Instr) (d : LoadDelay), wordAligned s.pc = true → decode (s.fetch s.pc) = .instr i →
    s.loadDelay = some d → isHazard s.params d.reg d.merging i = true →
    (s.params.loadDelay = .refuseOnUse → step s = .refused .loadUseHazard) ∧
    (s.params.loadDelay = .immediate ∨ (s.params.loadDelay = .lineage ∧ d.inTakenSlot = false) →
      ∀ u, exec i s.executing = .next u → step s = .next u.endStep) ∧
    (s.params.loadDelay = .hardware ∨ (s.params.loadDelay = .lineage ∧ d.inTakenSlot = true) →
      let e := s.executing.holdBack d
      (∀ r, e.readReg r = if r = d.reg then d.before else s.readReg r) ∧
      (∀ why, exec i e = .refused why → step s = .refused why) ∧
      ∀ u, exec i e = .next u →
        let writesItself := regWritten i = some d.reg ∧
          ((∃ rs imm, i = .bltzal rs imm ∨ i = .bgezal rs imm) → s.params.linkWhenNotTaken = true ∨ u.slot ≠ .notTaken)
        ∃ v, step s = .next v.endStep ∧
          (u.ctx.trapped = true → v = u ∧ (s.params.firmware = .absent → v.readReg d.reg = s.readReg d.reg)) ∧
          (u.ctx.trapped = false → v = { u with gpr := v.gpr, ctx := { u.ctx with held := none } } ∧
            (writesItself → ∀ r, v.readReg r = u.readReg r) ∧
            (¬writesItself → ∀ r, v.readReg r = if r = d.reg then s.readReg r else u.readReg r)))

/-- R360, the table of the registers an instruction reads: an instruction computes the same whatever value a register holds
that the table does not list for it and that it does not write itself (and that no held-back load is about to write). -/
def Obligations.UnreadRegistersDoNotMatter : Prop :=
  ∀ (i : Instr) (s : State) (r : Reg) (v : Word), s.params.firmware = .absent →
    r ∉ regsRead s.params i → regWritten i ≠ some r → (∀ h, s.ctx.held = some h → h.reg ≠ r) →
    exec i (s.writeReg r v) = onNext (fun t => t.writeReg r v) (exec i s)

/-- R370: every step adds exactly 1 to the cycle counter, traps, DMA transfers and no-ops included. The parameters never change
(10_state.md R41), and `code` holds the fetched word (10_state.md R26). -/
def Obligations.StepBookkeeping : Prop :=
  ∀ s t : State, step s = .next t →
    t.cycle = s.cycle + 1 ∧ t.params = s.params ∧ (wordAligned s.pc = true → t.code = s.fetch s.pc)

/-- 10_state.md R24: no instruction writes pc but by raising an exception (a transfer records its target in `slot`), and only
control transfers write `slot`. -/
def Obligations.PcDuringExecution : Prop :=
  ∀ (i : Instr) (s u : State), exec i s = .next u → u.ctx.trapped = false →
    u.pc = s.pc ∧ (i.isTransfer = false → u.slot = s.slot) ∧ (i.isTransfer = true → u.slot ≠ .none)

/-- 60_exceptions.md R251 and the model's choices for U1 and U3 (log 1, log 5): no instruction faults, and an instruction stops
exactly when it is a transfer in a delay slot, a misaligned access under policy refuse, or a misaligned access past the end of
its store under policy bytewise; every other instruction completes. Loads skipped by R199 (policy lineage) are left out. -/
def Obligations.WhenInstructionsStop : Prop :=
  ∀ (i : Instr) (s : State),
    (∀ f, exec i s ≠ .fault f) ∧
    (i.isTransfer = true → s.inDelaySlot = true → exec i s = .refused .transferInDelaySlot) ∧
    (s.params.loadDelay ≠ .lineage → ∀ w b o, i.alignedAccess = some (w, b, o) →
      alignedFor w (s.effAddr b o) = false →
      (s.params.misaligned = .refuse → exec i s = .refused .misalignedAccess) ∧
      (s.params.misaligned = .bytewise → s.fitsStore (s.effAddr b o) w = false →
        exec i s = .refused .accessPastStore)) ∧
    ((i.isTransfer = true → s.inDelaySlot = false) →
      (∀ w b o, i.alignedAccess = some (w, b, o) → alignedFor w (s.effAddr b o) = true ∨
        s.params.misaligned = .addressError ∨
        (s.params.misaligned = .bytewise ∧ s.fitsStore (s.effAddr b o) w = true)) →
      ∃ t, exec i s = .next t ∧ t.params = s.params ∧ t.cycle = s.cycle ∧ t.code = s.code)

/-! ## Immediate arithmetic and logic (40_alu_immediate.md) -/

/-- R131, R132: the sum wraps, but for ADDI under OVERFLOW_TRAPS where the exact sum is no 32-bit value: then the destination is
not written and the overflow trap is taken (for destination 0, which the spec leaves open: TrapsTheSpecLeavesOpen). -/
def Obligations.AddImmediate : Prop :=
  PrimaryEntry 8 (formRRI .addi) ∧ PrimaryEntry 9 (formRRI .addiu) ∧
  ∀ (rs rt : Reg) (imm : Half) (s : State),
    (∃ t, exec (.addiu rs rt imm) s = .next t ∧
      OnlyReg s t rt (BitVec.ofInt 32 ((s.readReg rs).toInt + imm.toInt))) ∧
    (s.params.overflowTraps = false ∨
        (-2 ^ 31 ≤ (s.readReg rs).toInt + imm.toInt ∧ (s.readReg rs).toInt + imm.toInt < 2 ^ 31) →
      ∃ t, exec (.addi rs rt imm) s = .next t ∧
        OnlyReg s t rt (BitVec.ofInt 32 ((s.readReg rs).toInt + imm.toInt))) ∧
    (s.params.overflowTraps = true → rt ≠ 0 →
      ¬(-2 ^ 31 ≤ (s.readReg rs).toInt + imm.toInt ∧ (s.readReg rs).toInt + imm.toInt < 2 ^ 31) →
      ∃ t, exec (.addi rs rt imm) s = .next t ∧ t = s.raise .overflow s.bdFlag s.ia ∧
        (s.params.firmware = .absent → TrapEntered s t 12 false s.bdFlag s.ia))

/-- R133, R134. -/
def Obligations.CompareImmediate : Prop :=
  PrimaryEntry 10 (formRRI .slti) ∧ PrimaryEntry 11 (formRRI .sltiu) ∧
  ∀ (rs rt : Reg) (imm : Half) (s : State),
    (∃ t, exec (.slti rs rt imm) s = .next t ∧
      OnlyReg s t rt (if (s.readReg rs).toInt < imm.toInt then 1 else 0)) ∧
    (∃ t, exec (.sltiu rs rt imm) s = .next t ∧
      OnlyReg s t rt
        (if (s.readReg rs).toNat < (if imm.toNat < 0x8000 then imm.toNat else imm.toNat + 0xFFFF0000) then 1 else 0))

/-- R135 to R138: bit by bit. -/
def Obligations.LogicImmediate : Prop :=
  PrimaryEntry 12 (formRRI .andi) ∧ PrimaryEntry 13 (formRRI .ori) ∧ PrimaryEntry 14 (formRRI .xori) ∧
  PrimaryEntry 15 (fun w => .lui (rtOf w) (immOf w)) ∧
  ∀ (rs rt : Reg) (imm : Half) (s : State),
    (∃ t v, exec (.andi rs rt imm) s = .next t ∧ OnlyReg s t rt v ∧
      ∀ k, v.getLsbD k = ((s.readReg rs).getLsbD k && imm.getLsbD k)) ∧
    (∃ t v, exec (.ori rs rt imm) s = .next t ∧ OnlyReg s t rt v ∧
      ∀ k, v.getLsbD k = ((s.readReg rs).getLsbD k || imm.getLsbD k)) ∧
    (∃ t v, exec (.xori rs rt imm) s = .next t ∧ OnlyReg s t rt v ∧
      ∀ k, v.getLsbD k = ((s.readReg rs).getLsbD k ^^ imm.getLsbD k)) ∧
    (∃ t, exec (.lui rt imm) s = .next t ∧ OnlyReg s t rt (BitVec.ofNat 32 (imm.toNat * 0x10000)))

/-! ## Register arithmetic and logic (41_alu_register.md) -/

/-- R141 to R144: ADD and SUB trap as ADDI does (for destination 0: TrapsTheSpecLeavesOpen). -/
def Obligations.AddSubtractRegister : Prop :=
  SpecialEntry 0x20 (formRRR .add) ∧ SpecialEntry 0x21 (formRRR .addu) ∧ SpecialEntry 0x22 (formRRR .sub) ∧
  SpecialEntry 0x23 (formRRR .subu) ∧
  ∀ (rs rt rd : Reg) (s : State),
    let a := (s.readReg rs).toInt
    let b := (s.readReg rt).toInt
    (∃ t, exec (.addu rs rt rd) s = .next t ∧ OnlyReg s t rd (BitVec.ofInt 32 (a + b))) ∧
    (∃ t, exec (.subu rs rt rd) s = .next t ∧ OnlyReg s t rd (BitVec.ofInt 32 (a - b))) ∧
    (s.params.overflowTraps = false ∨ (-2 ^ 31 ≤ a + b ∧ a + b < 2 ^ 31) →
      ∃ t, exec (.add rs rt rd) s = .next t ∧ OnlyReg s t rd (BitVec.ofInt 32 (a + b))) ∧
    (s.params.overflowTraps = false ∨ (-2 ^ 31 ≤ a - b ∧ a - b < 2 ^ 31) →
      ∃ t, exec (.sub rs rt rd) s = .next t ∧ OnlyReg s t rd (BitVec.ofInt 32 (a - b))) ∧
    (s.params.overflowTraps = true → rd ≠ 0 → ¬(-2 ^ 31 ≤ a + b ∧ a + b < 2 ^ 31) →
      ∃ t, exec (.add rs rt rd) s = .next t ∧ t = s.raise .overflow s.bdFlag s.ia ∧
        (s.params.firmware = .absent → TrapEntered s t 12 false s.bdFlag s.ia)) ∧
    (s.params.overflowTraps = true → rd ≠ 0 → ¬(-2 ^ 31 ≤ a - b ∧ a - b < 2 ^ 31) →
      ∃ t, exec (.sub rs rt rd) s = .next t ∧ t = s.raise .overflow s.bdFlag s.ia ∧
        (s.params.firmware = .absent → TrapEntered s t 12 false s.bdFlag s.ia))

/-- R145 to R148: bit by bit. -/
def Obligations.LogicRegister : Prop :=
  SpecialEntry 0x24 (formRRR .and) ∧ SpecialEntry 0x25 (formRRR .or) ∧ SpecialEntry 0x26 (formRRR .xor) ∧
  SpecialEntry 0x27 (formRRR .nor) ∧
  ∀ (rs rt rd : Reg) (s : State),
    (∃ t v, exec (.and rs rt rd) s = .next t ∧ OnlyReg s t rd v ∧
      ∀ k, v.getLsbD k = ((s.readReg rs).getLsbD k && (s.readReg rt).getLsbD k)) ∧
    (∃ t v, exec (.or rs rt rd) s = .next t ∧ OnlyReg s t rd v ∧
      ∀ k, v.getLsbD k = ((s.readReg rs).getLsbD k || (s.readReg rt).getLsbD k)) ∧
    (∃ t v, exec (.xor rs rt rd) s = .next t ∧ OnlyReg s t rd v ∧
      ∀ k, v.getLsbD k = ((s.readReg rs).getLsbD k ^^ (s.readReg rt).getLsbD k)) ∧
    (∃ t v, exec (.nor rs rt rd) s = .next t ∧ OnlyReg s t rd v ∧
      ∀ k, k < 32 → v.getLsbD k = !((s.readReg rs).getLsbD k || (s.readReg rt).getLsbD k))

/-- R149, R150. -/
def Obligations.CompareRegister : Prop :=
  SpecialEntry 0x2A (formRRR .slt) ∧ SpecialEntry 0x2B (formRRR .sltu) ∧
  ∀ (rs rt rd : Reg) (s : State),
    (∃ t, exec (.slt rs rt rd) s = .next t ∧
      OnlyReg s t rd (if (s.readReg rs).toInt < (s.readReg rt).toInt then 1 else 0)) ∧
    (∃ t, exec (.sltu rs rt rd) s = .next t ∧
      OnlyReg s t rd (if (s.readReg rs).toNat < (s.readReg rt).toNat then 1 else 0))

/-! ## Shifts (42_shift.md) -/

/-- R156 to R158: products and floor quotients by a power of two. -/
def Obligations.ShiftImmediate : Prop :=
  SpecialEntry 0 (fun w => .sll (rtOf w) (rdOf w) (shamtOf w)) ∧
  SpecialEntry 2 (fun w => .srl (rtOf w) (rdOf w) (shamtOf w)) ∧
  SpecialEntry 3 (fun w => .sra (rtOf w) (rdOf w) (shamtOf w)) ∧
  ∀ (rt rd : Reg) (sh : BitVec 5) (s : State),
    (∃ t, exec (.sll rt rd sh) s = .next t ∧
      OnlyReg s t rd (BitVec.ofNat 32 ((s.readReg rt).toNat * 2 ^ sh.toNat))) ∧
    (∃ t, exec (.srl rt rd sh) s = .next t ∧
      OnlyReg s t rd (BitVec.ofNat 32 ((s.readReg rt).toNat / 2 ^ sh.toNat))) ∧
    (∃ t, exec (.sra rt rd sh) s = .next t ∧
      OnlyReg s t rd (BitVec.ofInt 32 ((s.readReg rt).toInt / 2 ^ sh.toNat)))

/-- R159 to R161: the amount is x[rs] mod 32. -/
def Obligations.ShiftVariable : Prop :=
  SpecialEntry 4 (formRRR .sllv) ∧ SpecialEntry 6 (formRRR .srlv) ∧ SpecialEntry 7 (formRRR .srav) ∧
  ∀ (rs rt rd : Reg) (s : State),
    (∃ t, exec (.sllv rs rt rd) s = .next t ∧
      OnlyReg s t rd (BitVec.ofNat 32 ((s.readReg rt).toNat * 2 ^ ((s.readReg rs).toNat % 32)))) ∧
    (∃ t, exec (.srlv rs rt rd) s = .next t ∧
      OnlyReg s t rd (BitVec.ofNat 32 ((s.readReg rt).toNat / 2 ^ ((s.readReg rs).toNat % 32)))) ∧
    (∃ t, exec (.srav rs rt rd) s = .next t ∧
      OnlyReg s t rd (BitVec.ofInt 32 ((s.readReg rt).toInt / 2 ^ ((s.readReg rs).toNat % 32))))

/-! ## Multiply, divide, HI and LO (43_muldiv.md) -/

/-- R166, R167: HI and LO together are the exact product. -/
def Obligations.MultiplyExact : Prop :=
  SpecialEntry 0x18 (fun w => .mult (rsOf w) (rtOf w)) ∧ SpecialEntry 0x19 (fun w => .multu (rsOf w) (rtOf w)) ∧
  ∀ (rs rt : Reg) (s : State),
    (∃ t, exec (.mult rs rt) s = .next t ∧ t = { s with hi := t.hi, lo := t.lo } ∧
      t.hi.toInt * 2 ^ 32 + (t.lo.toNat : Int) = (s.readReg rs).toInt * (s.readReg rt).toInt) ∧
    (∃ t, exec (.multu rs rt) s = .next t ∧ t = { s with hi := t.hi, lo := t.lo } ∧
      t.hi.toNat * 2 ^ 32 + t.lo.toNat = (s.readReg rs).toNat * (s.readReg rt).toNat)

/-- R168: nothing on divisor 0; otherwise quotient truncated toward zero and remainder with the dividend's sign, as the
division identity of R174 fixes them; and the one case whose quotient does not fit. -/
def Obligations.SignedDivide : Prop :=
  SpecialEntry 0x1A (fun w => .div (rsOf w) (rtOf w)) ∧
  ∀ (rs rt : Reg) (s : State),
    let a := (s.readReg rs).toInt
    let b := (s.readReg rt).toInt
    (b = 0 → exec (.div rs rt) s = .next s) ∧
    (b ≠ 0 → ¬(a = -2 ^ 31 ∧ b = -1) →
      ∃ t, exec (.div rs rt) s = .next t ∧ t = { s with hi := t.hi, lo := t.lo } ∧
        a = t.lo.toInt * b + t.hi.toInt ∧ t.hi.toInt.natAbs < b.natAbs ∧ (t.hi.toInt ≠ 0 → (t.hi.toInt < 0 ↔ a < 0))) ∧
    (a = -2 ^ 31 → b = -1 →
      ∃ t, exec (.div rs rt) s = .next t ∧ t = { s with hi := t.hi, lo := t.lo } ∧ t.lo = 0x80000000 ∧ t.hi = 0)

/-- R169. -/
def Obligations.UnsignedDivide : Prop :=
  SpecialEntry 0x1B (fun w => .divu (rsOf w) (rtOf w)) ∧
  ∀ (rs rt : Reg) (s : State),
    (s.readReg rt = 0 → exec (.divu rs rt) s = .next s) ∧
    (s.readReg rt ≠ 0 →
      ∃ t, exec (.divu rs rt) s = .next t ∧ t = { s with hi := t.hi, lo := t.lo } ∧
        (s.readReg rs).toNat = t.lo.toNat * (s.readReg rt).toNat + t.hi.toNat ∧ t.hi.toNat < (s.readReg rt).toNat)

/-- R170 to R173. -/
def Obligations.HiLoMoves : Prop :=
  SpecialEntry 0x10 (fun w => .mfhi (rdOf w)) ∧ SpecialEntry 0x12 (fun w => .mflo (rdOf w)) ∧
  SpecialEntry 0x11 (fun w => .mthi (rsOf w)) ∧ SpecialEntry 0x13 (fun w => .mtlo (rsOf w)) ∧
  ∀ (r : Reg) (s : State),
    (∃ t, exec (.mfhi r) s = .next t ∧ OnlyReg s t r s.hi) ∧
    (∃ t, exec (.mflo r) s = .next t ∧ OnlyReg s t r s.lo) ∧
    exec (.mthi r) s = .next { s with hi := s.readReg r } ∧
    exec (.mtlo r) s = .next { s with lo := s.readReg r }

/-! ## Control transfer (44_branch_jump.md) -/

/-- R183 to R186: target and link value from pc = ia + 4; the target is read before the link is written. In a delay slot these
instructions stop (WhenInstructionsStop). -/
def Obligations.JumpsRecordTheirTarget : Prop :=
  PrimaryEntry 2 (fun w => .j (targetOf w)) ∧ PrimaryEntry 3 (fun w => .jal (targetOf w)) ∧
  SpecialEntry 8 (fun w => .jr (rsOf w)) ∧ SpecialEntry 9 (fun w => .jalr (rsOf w) (rdOf w)) ∧
  ∀ s : State, s.inDelaySlot = false →
    (∀ target : BitVec 26, ∃ a : Word, a.toNat = s.pc.toNat / 2 ^ 28 * 2 ^ 28 + target.toNat * 4 ∧
      exec (.j target) s = .next { s with slot := .taken a } ∧
      ∃ t, exec (.jal target) s = .next t ∧ OnlyReg { s with slot := .taken a } t 31 (s.pc + 4)) ∧
    (∀ rs : Reg, exec (.jr rs) s = .next { s with slot := .taken (s.readReg rs) }) ∧
    (∀ rs rd : Reg, ∃ t, exec (.jalr rs rd) s = .next t ∧
      OnlyReg { s with slot := .taken (s.readReg rs) } t rd (s.pc + 4))

/-- R187 to R193: the condition decides between Taken and NotTaken; nothing else changes. -/
def Obligations.ConditionalBranches : Prop :=
  PrimaryEntry 4 (formRRI .beq) ∧ PrimaryEntry 5 (formRRI .bne) ∧ PrimaryEntry 6 (fun w => .blez (rsOf w) (immOf w)) ∧
  PrimaryEntry 7 (fun w => .bgtz (rsOf w) (immOf w)) ∧ RegimmEntry 0 (fun w => .bltz (rsOf w) (immOf w)) ∧
  RegimmEntry 1 (fun w => .bgez (rsOf w) (immOf w)) ∧
  ∀ (rs rt : Reg) (imm : Half) (s : State), s.inDelaySlot = false →
    let a : Slot := .taken (BitVec.ofInt 32 (s.pc.toInt + 4 * imm.toInt))
    let x := (s.readReg rs).toInt
    exec (.beq rs rt imm) s = .next { s with slot := if s.readReg rs = s.readReg rt then a else .notTaken } ∧
    exec (.bne rs rt imm) s = .next { s with slot := if s.readReg rs ≠ s.readReg rt then a else .notTaken } ∧
    exec (.blez rs imm) s = .next { s with slot := if x ≤ 0 then a else .notTaken } ∧
    exec (.bgtz rs imm) s = .next { s with slot := if 0 < x then a else .notTaken } ∧
    exec (.bltz rs imm) s = .next { s with slot := if x < 0 then a else .notTaken } ∧
    exec (.bgez rs imm) s = .next { s with slot := if 0 ≤ x then a else .notTaken }

/-- R194, R195: register 31 receives the link value whether or not the branch is taken, unless LINK_WHEN_NOT_TAKEN is false; the
condition is read first. -/
def Obligations.LinkingBranches : Prop :=
  RegimmEntry 16 (fun w => .bltzal (rsOf w) (immOf w)) ∧ RegimmEntry 17 (fun w => .bgezal (rsOf w) (immOf w)) ∧
  ∀ (rs : Reg) (imm : Half) (s : State), s.inDelaySlot = false →
    let a : Slot := .taken (BitVec.ofInt 32 (s.pc.toInt + 4 * imm.toInt))
    let x := (s.readReg rs).toInt
    (x < 0 → ∃ t, exec (.bltzal rs imm) s = .next t ∧ OnlyReg { s with slot := a } t 31 (s.pc + 4)) ∧
    (0 ≤ x → ∃ t, exec (.bgezal rs imm) s = .next t ∧ OnlyReg { s with slot := a } t 31 (s.pc + 4)) ∧
    (s.params.linkWhenNotTaken = true →
      (0 ≤ x → ∃ t, exec (.bltzal rs imm) s = .next t ∧ OnlyReg { s with slot := .notTaken } t 31 (s.pc + 4)) ∧
      (x < 0 → ∃ t, exec (.bgezal rs imm) s = .next t ∧ OnlyReg { s with slot := .notTaken } t 31 (s.pc + 4))) ∧
    (s.params.linkWhenNotTaken = false →
      (0 ≤ x → exec (.bltzal rs imm) s = .next { s with slot := .notTaken }) ∧
      (x < 0 → exec (.bgezal rs imm) s = .next { s with slot := .notTaken }))

/-! ## Loads and stores (45_load_store.md, 20_memory.md) -/

/-- R210 to R216 outside the hardware register file: the bytes at the address, little-endian and extended; an unmapped address
loads 0 (20_memory.md R65). A load that R199 skips (policy lineage) is in AccessesThroughTheBus. -/
def Obligations.LoadsFromStorage : Prop :=
  PrimaryEntry 0x20 (formRRI .lb) ∧ PrimaryEntry 0x24 (formRRI .lbu) ∧ PrimaryEntry 0x21 (formRRI .lh) ∧
  PrimaryEntry 0x25 (formRRI .lhu) ∧ PrimaryEntry 0x23 (formRRI .lw) ∧
  ∀ (base rt : Reg) (offset : Half) (s : State),
    let a : Word := BitVec.ofInt 32 ((s.readReg base).toInt + offset.toInt)
    isHwFile a = false → s.lineageSkips rt false = false →
    (∃ t, exec (.lb base rt offset) s = .next t ∧ OnlyLoad s t rt ((s.peek a).signExtend 32) false s.spuCalls) ∧
    (∃ t, exec (.lbu base rt offset) s = .next t ∧ OnlyLoad s t rt ((s.peek a).setWidth 32) false s.spuCalls) ∧
    (a.toNat % 2 = 0 →
      (∃ t, exec (.lh base rt offset) s = .next t ∧
        OnlyLoad s t rt ((s.peek (a + 1) ++ s.peek a : Half).signExtend 32) false s.spuCalls) ∧
      (∃ t, exec (.lhu base rt offset) s = .next t ∧
        OnlyLoad s t rt ((s.peek (a + 1) ++ s.peek a : Half).setWidth 32) false s.spuCalls)) ∧
    (a.toNat % 4 = 0 →
      ∃ t, exec (.lw base rt offset) s = .next t ∧
        OnlyLoad s t rt (s.peek (a + 3) ++ s.peek (a + 2) ++ s.peek (a + 1) ++ s.peek a) false s.spuCalls)

/-- R217, R218 outside the hardware register file: byte j of the result, for each of the four alignments. -/
def Obligations.UnalignedLoads : Prop :=
  PrimaryEntry 0x22 (formRRI .lwl) ∧ PrimaryEntry 0x26 (formRRI .lwr) ∧
  ∀ (base rt : Reg) (offset : Half) (s : State),
    let a : Word := BitVec.ofInt 32 ((s.readReg base).toInt + offset.toInt)
    let k := a.toNat % 4
    isHwFile a = false → s.lineageSkips rt true = false →
    (∃ t v, exec (.lwl base rt offset) s = .next t ∧ OnlyLoad s t rt v true s.spuCalls ∧
      ∀ j, j < 4 → byteOfWord v j =
        if 3 - k ≤ j then s.peek (a - BitVec.ofNat 32 (3 - j)) else byteOfWord (s.readReg rt) j) ∧
    (∃ t v, exec (.lwr base rt offset) s = .next t ∧ OnlyLoad s t rt v true s.spuCalls ∧
      ∀ j, j < 4 → byteOfWord v j =
        if j < 4 - k then s.peek (a + BitVec.ofNat 32 j) else byteOfWord (s.readReg rt) j)

/-- R220 to R223 outside the hardware register file: the low bytes of x[rt], least significant first, in the store the address
reaches; no other byte of memory and nothing else changes. A store to an unmapped address is dropped (20_memory.md R65, R74,
R75), but for the word store to the cache-control address (CacheControlStores). -/
def Obligations.StoresToStorage : Prop :=
  PrimaryEntry 0x28 (formRRI .sb) ∧ PrimaryEntry 0x29 (formRRI .sh) ∧ PrimaryEntry 0x2B (formRRI .sw) ∧
  ∀ (base rt : Reg) (offset : Half) (s : State),
    let a : Word := BitVec.ofInt 32 ((s.readReg base).toInt + offset.toInt)
    (∀ st off, s.mem.wf = true → isHwFile a = false → s.resolve a = some (st, off) →
      (∃ t, exec (.sb base rt offset) s = .next t ∧ OnlyBytes s t st off 1 (byteOfWord (s.readReg rt))) ∧
      (a.toNat % 2 = 0 →
        ∃ t, exec (.sh base rt offset) s = .next t ∧ OnlyBytes s t st off 2 (byteOfWord (s.readReg rt))) ∧
      (a.toNat % 4 = 0 →
        ∃ t, exec (.sw base rt offset) s = .next t ∧ OnlyBytes s t st off 4 (byteOfWord (s.readReg rt)))) ∧
    (s.resolve a = none →
      exec (.sb base rt offset) s = .next s ∧
      (a.toNat % 2 = 0 → exec (.sh base rt offset) s = .next s) ∧
      (a.toNat % 4 = 0 → a ≠ 0xFFFE0130 → exec (.sw base rt offset) s = .next s))

/-- R224, R225 outside the hardware register file: SWL stores the top bytes of x[rt] from the addressed byte down to the start
of its word, SWR the bottom bytes from the addressed byte up to its end. -/
def Obligations.UnalignedStores : Prop :=
  PrimaryEntry 0x2A (formRRI .swl) ∧ PrimaryEntry 0x2E (formRRI .swr) ∧
  ∀ (base rt : Reg) (offset : Half) (s : State),
    let a : Word := BitVec.ofInt 32 ((s.readReg base).toInt + offset.toInt)
    let k := a.toNat % 4
    (∀ st off, s.mem.wf = true → isHwFile a = false → s.resolve a = some (st, off) →
      (∃ t, exec (.swl base rt offset) s = .next t ∧
        OnlyBytes s t st (off - k) (k + 1) (fun j => byteOfWord (s.readReg rt) (3 - k + j))) ∧
      (∃ t, exec (.swr base rt offset) s = .next t ∧
        OnlyBytes s t st off (4 - k) (byteOfWord (s.readReg rt)))) ∧
    (s.resolve a = none → a.toNat / 4 ≠ 0xFFFE0130 / 4 →
      exec (.swl base rt offset) s = .next s ∧ exec (.swr base rt offset) s = .next s)

/-- R210 to R225, 20_memory.md R69: every aligned load and store, at any address, is one bus access at x[base] + offset (LWL, LWR
one at the enclosing aligned word, SWL, SWR a read and a write of it), completes, and leaves alone everything but its destination
and what the bus can change: memory, the cache-isolated bit, the counters, the calls to the SPU. Byte j of what LWL, LWR, SWL and
SWR merge is as their tables say. Under LOAD_DELAY_POLICY = lineage a load that 44_branch_jump.md R199 skips does nothing (a misaligned
one that takes an address error is not skipped: MisalignedStopsOrTraps). -/
def Obligations.AccessesThroughTheBus : Prop :=
  (PrimaryEntry 0x20 (formRRI .lb) ∧ PrimaryEntry 0x24 (formRRI .lbu) ∧ PrimaryEntry 0x21 (formRRI .lh) ∧
    PrimaryEntry 0x25 (formRRI .lhu) ∧ PrimaryEntry 0x23 (formRRI .lw) ∧ PrimaryEntry 0x22 (formRRI .lwl) ∧
    PrimaryEntry 0x26 (formRRI .lwr) ∧ PrimaryEntry 0x28 (formRRI .sb) ∧ PrimaryEntry 0x29 (formRRI .sh) ∧
    PrimaryEntry 0x2B (formRRI .sw) ∧ PrimaryEntry 0x2A (formRRI .swl) ∧ PrimaryEntry 0x2E (formRRI .swr)) ∧
  ∀ (base rt : Reg) (offset : Half) (s : State),
    let a : Word := BitVec.ofInt 32 ((s.readReg base).toInt + offset.toInt)
    let k := a.toNat % 4
    let word : Word := a - BitVec.ofNat 32 k
    let b (x : Word) (j : Nat) : Byte := byteOfWord x j
    let x := s.readReg rt
    let w := (s.memRead word .word).1
    let onlyBus (t : State) : Prop :=
      t = { s with mem := t.mem, cacheIsolated := t.cacheIsolated, ctr := t.ctr, spuCalls := t.spuCalls }
    (s.lineageSkips rt false = true →
      exec (.lb base rt offset) s = .next s ∧ exec (.lbu base rt offset) s = .next s ∧
      (a.toNat % 2 = 0 ∨ s.params.misaligned ≠ .addressError →
        exec (.lh base rt offset) s = .next s ∧ exec (.lhu base rt offset) s = .next s) ∧
      (a.toNat % 4 = 0 ∨ s.params.misaligned ≠ .addressError → exec (.lw base rt offset) s = .next s)) ∧
    (s.lineageSkips rt true = true →
      exec (.lwl base rt offset) s = .next s ∧ exec (.lwr base rt offset) s = .next s) ∧
    (s.lineageSkips rt false = false →
      (∃ t, exec (.lb base rt offset) s = .next t ∧
        OnlyLoad s t rt (((s.memRead a .byte).1.setWidth 8).signExtend 32) false (s.memRead a .byte).2.spuCalls) ∧
      (∃ t, exec (.lbu base rt offset) s = .next t ∧
        OnlyLoad s t rt (((s.memRead a .byte).1.setWidth 8).setWidth 32) false (s.memRead a .byte).2.spuCalls) ∧
      (a.toNat % 2 = 0 →
        (∃ t, exec (.lh base rt offset) s = .next t ∧
          OnlyLoad s t rt (((s.memRead a .half).1.setWidth 16).signExtend 32) false (s.memRead a .half).2.spuCalls) ∧
        (∃ t, exec (.lhu base rt offset) s = .next t ∧
          OnlyLoad s t rt (((s.memRead a .half).1.setWidth 16).setWidth 32) false (s.memRead a .half).2.spuCalls)) ∧
      (a.toNat % 4 = 0 →
        ∃ t, exec (.lw base rt offset) s = .next t ∧
          OnlyLoad s t rt (s.memRead a .word).1 false (s.memRead a .word).2.spuCalls)) ∧
    (s.lineageSkips rt true = false →
      (∃ t v, exec (.lwl base rt offset) s = .next t ∧ OnlyLoad s t rt v true (s.memRead word .word).2.spuCalls ∧
        ∀ j, j < 4 → b v j = if 3 - k ≤ j then b w (j - (3 - k)) else b x j) ∧
      (∃ t v, exec (.lwr base rt offset) s = .next t ∧ OnlyLoad s t rt v true (s.memRead word .word).2.spuCalls ∧
        ∀ j, j < 4 → b v j = if j < 4 - k then b w (j + k) else b x j)) ∧
    (∃ t, exec (.sb base rt offset) s = .next t ∧ t = s.memWrite a .byte x ∧ onlyBus t) ∧
    (a.toNat % 2 = 0 → ∃ t, exec (.sh base rt offset) s = .next t ∧ t = s.memWrite a .half x ∧ onlyBus t) ∧
    (a.toNat % 4 = 0 → ∃ t, exec (.sw base rt offset) s = .next t ∧ t = s.memWrite a .word x ∧ onlyBus t) ∧
    (∃ t v, exec (.swl base rt offset) s = .next t ∧ t = (s.memRead word .word).2.memWrite word .word v ∧ onlyBus t ∧
      ∀ j, j < 4 → b v j = if j ≤ k then b x (3 - k + j) else b w j) ∧
    (∃ t v, exec (.swr base rt offset) s = .next t ∧ t = (s.memRead word .word).2.memWrite word .word v ∧ onlyBus t ∧
      ∀ j, j < 4 → b v j = if j < k then b w j else b x (j - k))

/-- 20_memory.md R85: what a store to 0xFFFE0130 does at each width. -/
def Obligations.CacheControlStores : Prop :=
  ∀ (base rt : Reg) (offset : Half) (s : State),
    BitVec.ofInt 32 ((s.readReg base).toInt + offset.toInt) = (0xFFFE0130 : Word) →
    let v := s.readReg rt
    exec (.sw base rt offset) s = .next
      { s with
        cacheIsolated :=
          if v = 0x00000800 ∨ v = 0x00000804 then true else if v = 0x0001E988 then false else s.cacheIsolated } ∧
    exec (.sh base rt offset) s = .next s ∧
    exec (.sb base rt offset) s = .next s ∧
    (∀ w, s.memRead 0xFFFE0130 w = (0, s))

/-- 45_load_store.md R226: at any address in plain storage, SWL and SWR write the four bytes of x[rt] and no other byte, and LWL
and LWR then give the value back, whatever the destination held. -/
def Obligations.UnalignedRoundTrip : Prop :=
  ∀ (b r d : Reg) (s : State), s.mem.wf = true → d ≠ 0 → d ≠ b → s.params.loadDelay ≠ .lineage →
    let a := s.readReg b
    isHwFile a = false → isHwFile (a + 3) = false → (s.resolve a).isSome = true → (s.resolve (a + 3)).isSome = true →
    ∃ s1 s2 s3 s4, exec (.swl b r 3) s = .next s1 ∧ exec (.swr b r 0) s1 = .next s2 ∧
      exec (.lwl b d 3) s2 = .next s3 ∧ exec (.lwr b d 0) s3 = .next s4 ∧
      (∀ j, j < 4 → s2.peek (a + BitVec.ofNat 32 j) = byteOfWord (s.readReg r) j) ∧
      (∀ st off, (∀ j, j < 4 → s.resolve (a + BitVec.ofNat 32 j) ≠ some (st, off)) →
        s2.mem.byte st off = s.mem.byte st off) ∧
      s4.readReg d = s.readReg r

/-- 20_memory.md R77, 10_state.md R25: a misaligned load, store or fetch stops under policy refuse (but for a load that
44_branch_jump.md R199 skips), and takes an address error, with the address in c0[8] (60_exceptions.md R252), under policy
address-error. The model's choices: the policy at reset is log 1 (DESIGN CHOICE); that the step of a misaligned fetch counts its
cycle, advances pc and keeps `code` is log 3 (DEDUCED); that a load which takes an address error is not skipped by R199 under
LOAD_DELAY_POLICY = lineage, so that it traps whatever stands at the target, is log 10 (DEDUCED). -/
def Obligations.MisalignedStopsOrTraps : Prop :=
  (∀ (base rt : Reg) (offset : Half) (s : State),
    let a : Word := BitVec.ofInt 32 ((s.readReg base).toInt + offset.toInt)
    let traps (t : State) (c : Cause) (code : Nat) : Prop := t = (s.writeCop0 8 a).raise c s.bdFlag s.ia ∧
      (s.params.firmware = .absent → TrapEntered (s.writeCop0 8 a) t code false s.bdFlag s.ia)
    (s.params.misaligned = .refuse →
      (a.toNat % 2 ≠ 0 → exec (.sh base rt offset) s = .refused .misalignedAccess) ∧
      (a.toNat % 4 ≠ 0 → exec (.sw base rt offset) s = .refused .misalignedAccess) ∧
      (s.lineageSkips rt false = false →
        (a.toNat % 2 ≠ 0 → exec (.lh base rt offset) s = .refused .misalignedAccess ∧
          exec (.lhu base rt offset) s = .refused .misalignedAccess) ∧
        (a.toNat % 4 ≠ 0 → exec (.lw base rt offset) s = .refused .misalignedAccess))) ∧
    (s.params.misaligned = .addressError →
      (a.toNat % 2 ≠ 0 →
        (∃ t, exec (.lh base rt offset) s = .next t ∧ traps t .adEL 4) ∧
        (∃ t, exec (.lhu base rt offset) s = .next t ∧ traps t .adEL 4) ∧
        (∃ t, exec (.sh base rt offset) s = .next t ∧ traps t .adES 5)) ∧
      (a.toNat % 4 ≠ 0 →
        (∃ t, exec (.lw base rt offset) s = .next t ∧ traps t .adEL 4) ∧
        (∃ t, exec (.sw base rt offset) s = .next t ∧ traps t .adES 5)))) ∧
  ∀ s : State, s.pc.toNat % 4 ≠ 0 →
    (s.params.misaligned ≠ .addressError → step s = .fault .unalignedFetch) ∧
    (s.params.misaligned = .addressError →
      let u := s.startStep s.code
      ∃ t, step s = .next t.endStep ∧ t = (u.writeCop0 8 s.pc).raise .adEL u.bdFlag s.pc ∧
        (s.params.firmware = .absent → TrapEntered (u.writeCop0 8 s.pc) t 4 false u.bdFlag s.pc))

/-- 20_memory.md R77: under policy bytewise a misaligned access is the bytes from the address on within the resolved store. The
model's choices (log 4, DEDUCED): these are the raw bytes also in the hardware register file, an access that passes the store's end
stops by name, and one to an unmapped address reads 0 and writes nothing. -/
def Obligations.MisalignedBytewise : Prop :=
  ∀ (base rt : Reg) (offset : Half) (s : State),
    let a : Word := BitVec.ofInt 32 ((s.readReg base).toInt + offset.toInt)
    s.params.misaligned = .bytewise → s.lineageSkips rt false = false →
    (s.resolve a = none →
      (a.toNat % 2 ≠ 0 →
        (∃ t, exec (.lh base rt offset) s = .next t ∧ OnlyLoad s t rt 0 false s.spuCalls) ∧
        (∃ t, exec (.lhu base rt offset) s = .next t ∧ OnlyLoad s t rt 0 false s.spuCalls) ∧
        exec (.sh base rt offset) s = .next s) ∧
      (a.toNat % 4 ≠ 0 →
        (∃ t, exec (.lw base rt offset) s = .next t ∧ OnlyLoad s t rt 0 false s.spuCalls) ∧
        exec (.sw base rt offset) s = .next s)) ∧
    ∀ (st : Store) (off : Nat), s.mem.wf = true → s.resolve a = some (st, off) →
    (a.toNat % 2 ≠ 0 →
      (off + 2 ≤ st.size →
        (∃ t, exec (.lh base rt offset) s = .next t ∧
          OnlyLoad s t rt ((s.mem.byte st (off + 1) ++ s.mem.byte st off : Half).signExtend 32) false s.spuCalls) ∧
        (∃ t, exec (.lhu base rt offset) s = .next t ∧
          OnlyLoad s t rt ((s.mem.byte st (off + 1) ++ s.mem.byte st off : Half).setWidth 32) false s.spuCalls) ∧
        (∃ t, exec (.sh base rt offset) s = .next t ∧ OnlyBytes s t st off 2 (byteOfWord (s.readReg rt)))) ∧
      (st.size < off + 2 →
        exec (.lh base rt offset) s = .refused .accessPastStore ∧
        exec (.lhu base rt offset) s = .refused .accessPastStore ∧
        exec (.sh base rt offset) s = .refused .accessPastStore)) ∧
    (a.toNat % 4 ≠ 0 →
      (off + 4 ≤ st.size →
        (∃ t, exec (.lw base rt offset) s = .next t ∧
          OnlyLoad s t rt
            (s.mem.byte st (off + 3) ++ s.mem.byte st (off + 2) ++ s.mem.byte st (off + 1) ++ s.mem.byte st off) false
            s.spuCalls) ∧
        (∃ t, exec (.sw base rt offset) s = .next t ∧ OnlyBytes s t st off 4 (byteOfWord (s.readReg rt)))) ∧
      (st.size < off + 4 →
        exec (.lw base rt offset) s = .refused .accessPastStore ∧
        exec (.sw base rt offset) s = .refused .accessPastStore))

/-- 20_memory.md R62 to R64, R67: the whole address map, as byte ranges; the RAM ranges are there only while the cache is not
isolated, and byte k of RAM is reached at its twelve addresses. -/
def Obligations.PageMap : Prop :=
  (∀ (isolated : Bool) (a : Word),
    let n := a.toNat
    resolveAt isolated a =
      if n < 0x800000 ∨ (0x80000000 ≤ n ∧ n < 0x80800000) ∨ (0xA0000000 ≤ n ∧ n < 0xA0800000) then
        (if isolated then none else some (.ram, n % 0x200000))
      else if 0x1F000000 ≤ n ∧ n < 0x1F010000 then some (.par, n - 0x1F000000)
      else if 0x1F800000 ≤ n ∧ n < 0x1F810000 then some (.io, n - 0x1F800000)
      else if 0xBFC00000 ≤ n ∧ n < 0xBFC80000 then some (.rom, n - 0xBFC00000)
      else none) ∧
  ∀ (base j k : Nat), base = 0 ∨ base = 0x80000000 ∨ base = 0xA0000000 → j < 4 → k < 0x200000 →
    resolveAt false (BitVec.ofNat 32 (base + j * 0x200000 + k)) = some (.ram, k)

/-- 20_memory.md R95, R76, R82: a word written to plain storage is read back through every alias of the address, as a word, as
its bytes and halves, and by instruction fetch. -/
def Obligations.StorageRoundTrip : Prop :=
  ∀ (s : State) (a b v : Word), s.mem.wf = true → a.toNat % 4 = 0 → b.toNat % 4 = 0 →
    isHwFile a = false → isHwFile b = false → (s.resolve a).isSome = true → s.resolve b = s.resolve a →
    let t := s.memWrite a .word v
    t.memRead b .word = (v, t) ∧ t.fetch b = v ∧
    (∀ j, j < 4 → t.memRead (b + BitVec.ofNat 32 j) .byte = ((byteOfWord v j).setWidth 32, t)) ∧
    t.memRead b .half = ((v.extractLsb' 0 16).setWidth 32, t) ∧
    t.memRead (b + 2) .half = ((v.extractLsb' 16 16).setWidth 32, t)

/-! ## System and Coprocessor 0 (46_system_cop0.md), exceptions (60_exceptions.md) -/

/-- 46_system_cop0.md R231, R232, 60_exceptions.md R262 to R264: SYSCALL and BREAK take their exception at their own address; in a
delay slot EPC is the address of the transfer. Left to TrapsTheSpecLeavesOpen: the slot of a branch not taken under
BD_ON_NOT_TAKEN = false (log 17). The code field makes no difference. With no firmware agent (R269) `TrapEntered` says all of it;
with one, the hand-off follows (FirmwareSystemCall). -/
def Obligations.TrapInstructions : Prop :=
  SpecialEntry 0x0C (fun w => .syscall (codeOf w)) ∧ SpecialEntry 0x0D (fun w => .brk (codeOf w)) ∧
  ∀ (code : BitVec 20) (s : State),
    (s.ctx.consumed = .notTaken → s.params.bdOnNotTaken = true) →
    (∃ t, exec (.syscall code) s = .next t ∧ t = s.raise .syscall s.inDelaySlot (s.pc - 4) ∧
      (s.params.firmware = .absent → TrapEntered s t 8 false s.inDelaySlot (s.pc - 4))) ∧
    (s.params.breakTraps = true →
      ∃ t, exec (.brk code) s = .next t ∧ t = s.raise .breakpoint s.inDelaySlot (s.pc - 4) ∧
        (s.params.firmware = .absent → TrapEntered s t 9 false s.inDelaySlot (s.pc - 4))) ∧
    (s.params.breakTraps = false → exec (.brk code) s = .next s)

/-- 60_exceptions.md R268, R270, R271, with the firmware agent: SYSCALL with x[4] = 1 or 2 masks or unmasks interrupts and goes
on after itself; otherwise the general handler runs after the trap entry, and returns with slot = None. The model's choices:
Status bits 5:4 after the shim are the previous pair from before, by R270's pseudocode against its closing sentence (log 18,
DEDUCED); cycle, code, the parameters and the count of calls after the general handler rest on its making no soft calls (log 7,
DESIGN CHOICE); a load held back from the SYSCALL has landed (log 11, DEDUCED). -/
def Obligations.FirmwareSystemCall : Prop :=
  ∀ (code : BitVec 20) (s : State), s.params.firmware = .hle →
    let status := s.readCop0 statusReg
    ((s.readReg 4 = 1 ∨ s.readReg 4 = 2) →
      ∃ t, exec (.syscall code) s = .next t ∧
        t.readCop0 causeReg = (if s.bdFlag then 0x80000020 else 0x20) ∧
        t.readCop0 epcReg = (if s.bdFlag then s.pc - 8 else s.pc - 4) ∧
        t.pc = (if s.bdFlag then s.pc - 4 else s.pc) ∧
        (∀ k, (t.readCop0 statusReg).getLsbD k =
          if k = 0 ∨ k = 10 then decide (s.readReg 4 = 2)
          else if k = 4 ∨ k = 5 then status.getLsbD (k - 2) else status.getLsbD k) ∧
        (∀ r, r ≠ causeReg → r ≠ epcReg → r ≠ statusReg → t.readCop0 r = s.readCop0 r) ∧
        t = { s with
          gpr := s.landHeld.gpr, cop0 := t.cop0, pc := t.pc, slot := .none, loadDelay := none
          ctx := ⟨s.ctx.consumed, true, none⟩ }) ∧
    (s.readReg 4 ≠ 1 → s.readReg 4 ≠ 2 →
      ∃ t, exec (.syscall code) s = .next t ∧
        t = (s.trapRegisters .syscall s.bdFlag (s.pc - 4)).firmwareHandler .syscall ∧
        t.slot = .none ∧ t.readReg 0 = 0 ∧ t.cycle = s.cycle ∧
        t.code = s.code ∧ t.params = s.params ∧ t.firmwareCalls = s.firmwareCalls + 1)

/-- R233 to R236: every Coprocessor-0 register is read and written whole, by either name; a move from Coprocessor 0 is
load-class. Under LOAD_DELAY_POLICY = lineage a move that 44_branch_jump.md R199 skips does nothing. -/
def Obligations.Cop0Moves : Prop :=
  Cop0Entry 0 (fun w => .mfc0 (rtOf w) (rdOf w)) ∧ Cop0Entry 2 (fun w => .cfc0 (rtOf w) (rdOf w)) ∧
  Cop0Entry 4 (fun w => .mtc0 (rtOf w) (rdOf w)) ∧ Cop0Entry 6 (fun w => .ctc0 (rtOf w) (rdOf w)) ∧
  ∀ (rt rd : Reg) (s : State),
    (s.lineageSkips rt false = false →
      (∃ t, exec (.mfc0 rt rd) s = .next t ∧ OnlyLoad s t rt (s.readCop0 rd) false s.spuCalls) ∧
      (∃ t, exec (.cfc0 rt rd) s = .next t ∧ OnlyLoad s t rt (s.readCop0 rd) false s.spuCalls)) ∧
    (s.lineageSkips rt false = true → exec (.mfc0 rt rd) s = .next s ∧ exec (.cfc0 rt rd) s = .next s) ∧
    ∃ t, exec (.mtc0 rt rd) s = .next t ∧ exec (.ctc0 rt rd) s = .next t ∧ t = { s with cop0 := t.cop0 } ∧
      ∀ r, t.readCop0 r = if r = rd then s.readReg rt else s.readCop0 r

/-- R237 and 60_exceptions.md R266: RFE pops the Status stack and changes nothing else, pc included; after a trap entry it gives
back the mode and the interrupt enable from before the trap. -/
def Obligations.RfeRestoresStatus : Prop :=
  Cop0Entry 16 (fun _ => .rfe) ∧
  (∀ s : State, ∃ t, exec .rfe s = .next t ∧ t = { s with cop0 := t.cop0 } ∧
    (∀ r, r ≠ statusReg → t.readCop0 r = s.readCop0 r) ∧
    ∀ k, (t.readCop0 statusReg).getLsbD k =
      if k < 4 then (s.readCop0 statusReg).getLsbD (k + 2) else (s.readCop0 statusReg).getLsbD k) ∧
  ∀ (s : State) (c : Cause) (bd : Bool) (resume : Word), s.params.firmware = .absent →
    ∃ t, exec .rfe (s.raise c bd resume) = .next t ∧
      ∀ k, k < 4 ∨ 6 ≤ k → (t.readCop0 statusReg).getLsbD k = (s.readCop0 statusReg).getLsbD k

/-- 60_exceptions.md R259, R260, R265: at an evaluation the counters are caught up; then, exactly when an enabled source is
pending and Status bits 0 and 10 are set, the interrupt is taken with EPC = pc. With no firmware agent a trap entry leaves that
condition false, so a synchronous exception in the same step wins. -/
def Obligations.InterruptTaken : Prop :=
  ∀ s : State,
    (let c := s.catchUp
     let pending := c.ioWord iStatOff &&& c.ioWord iMaskOff ≠ 0 ∧ (c.readCop0 statusReg).getLsbD 0 = true ∧
       (c.readCop0 statusReg).getLsbD 10 = true
     (pending → s.evaluate = c.raise .interrupt false c.pc ∧
       (s.params.firmware = .absent → TrapEntered c s.evaluate 0 true false c.pc)) ∧
     (¬pending → s.evaluate = c)) ∧
    ∀ (cause : Cause) (bd : Bool) (resume : Word), s.params.firmware = .absent →
      (s.raise cause bd resume).evaluate = (s.raise cause bd resume).catchUp

/-- 60_exceptions.md R280: no instruction is privileged. Whether an instruction completes, traps or stops does not depend on any
Coprocessor-0 register, the mode and coprocessor-usable bits of Status among them; nor does what it leaves, but for what it copies
out of Coprocessor 0 (MFC0, CFC0), what stays there, and the vector, which Status bit 22 selects. Left out: what the firmware agent
does after a trap, which may depend on anything (R271). Under LOAD_DELAY_POLICY = lineage the interrupt enables, Status bits 0 and
10, are held equal, because whether an interrupt is taken decides whether a load is skipped (70_reset_and_hazards.md R360). -/
def Obligations.PrivilegeNotEnforced : Prop :=
  ∀ (i : Instr) (s : State) (c : Vector Word 32),
    let s' : State := { s with cop0 := c }
    (s.params.loadDelay = .lineage → ∀ k, k = 0 ∨ k = 10 → (s'.readCop0 12).getLsbD k = (s.readCop0 12).getLsbD k) →
    (∀ why, exec i s = .refused why ↔ exec i s' = .refused why) ∧
    ∀ t, exec i s = .next t → ∃ t', exec i s' = .next t' ∧ t'.ctx = t.ctx ∧
      (t.ctx.trapped = false ∨ s.params.firmware = .absent →
        t' = { t with gpr := t'.gpr, cop0 := t'.cop0, pc := t'.pc } ∧
        (∀ r, (∀ rd, i ≠ .mfc0 r rd ∧ i ≠ .cfc0 r rd) → t'.readReg r = t.readReg r) ∧
        (t.ctx.trapped = false ∨ (s'.readCop0 12).getLsbD 22 = (s.readCop0 12).getLsbD 22 → t'.pc = t.pc) ∧
        (∀ q, q ≠ statusReg → s'.readCop0 q = s.readCop0 q → t'.readCop0 q = t.readCop0 q) ∧
        ∀ k, 6 ≤ k → (s'.readCop0 12).getLsbD k = (s.readCop0 12).getLsbD k →
          (t'.readCop0 12).getLsbD k = (t.readCop0 12).getLsbD k)

/-! ## The hardware register file (60_exceptions.md) -/

/-- R294: the acknowledge write of I_STAT, bit by bit, under each policy, at 32 and at 16 bits; no other byte changes. -/
def Obligations.InterruptAcknowledge : Prop :=
  ∀ (s : State) (w : Width) (v : Word), s.mem.wf = true → w ≠ .byte →
    let t := s.memWrite 0x1F801070 w v
    let written (k : Nat) : Bool := v.getLsbD k && (w == .word || decide (k < 16))
    t = { s with mem := t.mem } ∧
    (∀ st off, ¬(st = .io ∧ 0x1070 ≤ off ∧ off < 0x1074) → t.mem.byte st off = s.mem.byte st off) ∧
    ∀ k, (t.ioWord 0x1070).getLsbD k =
      ((s.ioWord 0x1070).getLsbD k &&
        match s.params.istatAck with
        | .docAndNot => !(written k && (s.ioWord 0x1074).getLsbD k)
        | .lineageAnd => written k && (s.ioWord 0x1074).getLsbD k
        | .hardwareAnd => written k)

/-- R295, R296: a word store to D4_CHCR runs the whole transfer, or only stores the word. The model's choices: the bytes an external
SPU supplies are the free value `Config.spuDmaByte` of the history of calls, and a block written to the SPU is recorded with the
contents of RAM (log 6, DESIGN CHOICE, after R301); where a block longer than 2MB meets a byte more than once, the last wins (log
23, DESIGN CHOICE). -/
def Obligations.SoundDma : Prop :=
  ∀ (s : State) (v : Word), s.mem.wf = true →
    let t := s.memWrite 0x1F8010C8 .word v
    let base := (s.ioWord 0x10C0).toNat % 0x200000 / 4 * 4
    let words := (s.ioWord 0x10C4).toNat / 0x10000 * ((s.ioWord 0x10C4).toNat % 0x10000)
    let starts := v.getLsbD 24 = true ∧ (s.ioWord 0x10F0).getLsbD 19 = true
    let completes := (s.ioWord 0x10F4).getLsbD 20 = true
    t = { s with mem := t.mem, spuCalls := t.spuCalls } ∧
    (∀ st off, st ≠ .ram → ¬(st = .io ∧ 0x10C8 ≤ off ∧ off < 0x10CC) → ¬(st = .io ∧ 0x10F4 ≤ off ∧ off < 0x10F8) →
      ¬(st = .io ∧ 0x1070 ≤ off ∧ off < 0x1074) → t.mem.byte st off = s.mem.byte st off) ∧
    (¬starts → t.ioWord 0x10C8 = v ∧ t.ioWord 0x10F4 = s.ioWord 0x10F4 ∧ t.ioWord 0x1070 = s.ioWord 0x1070 ∧
      t.mem.ram = s.mem.ram ∧ t.spuCalls = s.spuCalls) ∧
    (starts → (∀ k, (t.ioWord 0x10C8).getLsbD k = (v.getLsbD k && decide (k ≠ 24))) ∧
      (∀ k, (t.ioWord 0x10F4).getLsbD k = ((s.ioWord 0x10F4).getLsbD k || (decide (k = 28) && decide completes))) ∧
      (∀ k, (t.ioWord 0x1070).getLsbD k = ((s.ioWord 0x1070).getLsbD k || (decide (k = 3) && decide completes)))) ∧
    (starts → v.getLsbD 0 = true →
      t.spuCalls = .writeDmaBlock base words s.mem.ram :: s.spuCalls ∧ t.mem.ram = s.mem.ram) ∧
    (starts → v.getLsbD 0 = false →
      t.spuCalls = .readDmaBlock base words :: s.spuCalls ∧
      (∀ k, k < 4 * words → (∀ k', k < k' → k' < 4 * words → (base + k') % 0x200000 ≠ (base + k) % 0x200000) →
        t.mem.byte .ram ((base + k) % 0x200000) =
        match s.params.spu with | .null => 0 | .external => Config.spuDmaByte t.spuCalls k) ∧
      ∀ off, (∀ k, k < 4 * words → off ≠ (base + k) % 0x200000) → t.mem.byte .ram off = s.mem.byte .ram off)

/-- R293, R299: every 8-bit access to the hardware register file, and every 16- or 32-bit access outside the registers that R290
and R291 single out, is the raw bytes of the I/O buffer and nothing else. -/
def Obligations.HardwarePassThrough : Prop :=
  ∀ (s : State) (a : Word) (v : Word), s.mem.wf = true → isHwFile a = true →
    let o := a.toNat - 0x1F800000
    let counterRegister := (o / 0x10 = 0x110 ∨ o / 0x10 = 0x111 ∨ o / 0x10 = 0x112) ∧ o % 0x10 ≤ 8
    (s.memRead a .byte = ((s.mem.byte .io o).setWidth 32, s) ∧
      OnlyBytes s (s.memWrite a .byte v) .io o 1 (byteOfWord v)) ∧
    (a.toNat % 2 = 0 → ¬(counterRegister ∧ o % 4 = 0) → ¬(0x1C00 ≤ o ∧ o < 0x1E00) →
      s.memRead a .half = ((s.mem.byte .io (o + 1) ++ s.mem.byte .io o : Half).setWidth 32, s) ∧
      (o ≠ 0x1070 → OnlyBytes s (s.memWrite a .half v) .io o 2 (byteOfWord v))) ∧
    (a.toNat % 4 = 0 → ¬counterRegister →
      s.memRead a .word = (s.mem.byte .io (o + 3) ++ s.mem.byte .io (o + 2) ++ s.mem.byte .io (o + 1) ++ s.mem.byte .io o, s) ∧
      (o ≠ 0x1070 → o ≠ 0x10C8 → OnlyBytes s (s.memWrite a .word v) .io o 4 (byteOfWord v)))

/-- R298, R300, R301: a 16-bit access in the SPU window is one call of the SPU and touches nothing else; a load returns what the
SPU answers, 0 for the null SPU. The model's choices (log 6, DESIGN CHOICE): the record of the calls in `spuCalls`, and an external
SPU's answer as the free value `Config.spuRegister` of the history of calls. -/
def Obligations.SpuWindow : Prop :=
  ∀ (s : State) (a : Word) (v : Word), 0x1F801C00 ≤ a.toNat → a.toNat < 0x1F801E00 → a.toNat % 2 = 0 →
    s.memWrite a .half v = { s with spuCalls := .writeRegister a (v.setWidth 16) :: s.spuCalls } ∧
    (s.memRead a .half).2 = { s with spuCalls := .readRegister a :: s.spuCalls } ∧
    (s.params.spu = .null → (s.memRead a .half).1 = 0) ∧
    (s.params.spu = .external →
      (s.memRead a .half).1 = (Config.spuRegister (.readRegister a :: s.spuCalls)).setWidth 32)

/-- R292, R316 to R319, R312: the nine counter registers, at 16 and at 32 bits. -/
def Obligations.CounterRegisters : Prop :=
  ∀ (s : State) (i : Fin 4) (a : Word) (v : Word) (w : Width), i ≠ 3 → w ≠ .byte →
    a.toNat = 0x1F801100 + 0x10 * i.val →
    let c := s.ctr[i]
    let low (x : Word) : Word := BitVec.ofNat 32 (x.toNat % 0x10000)
    s.memRead a w = (BitVec.ofNat 32 ((c.count.toNat + (s.cycle - c.sCycle).toNat / c.rate.toNat) % 0x10000), s) ∧
    s.memRead (a + 4) w = (if w = .word then c.mode else low c.mode, s) ∧
    s.memRead (a + 8) w = (if w = .word then c.target else low c.target, s) ∧
    s.memWrite a w v = s.setCtr i (counterUpd i s.cycle { c with count := low v }) ∧
    s.memWrite (a + 4) w v = (let m := if w = .word then v else low v
      s.setCtr i (counterUpd i s.cycle { c with
        mode := m
        count := 0
        rate :=
          if i = 0 ∧ m.toNat / 0x100 % 4 = 1 then 5
          else if i = 1 ∧ m.toNat / 0x100 % 4 = 1 then 2154
          else if i = 2 ∧ m.toNat / 0x100 % 4 = 2 then 8 else 1 })) ∧
    s.memWrite (a + 8) w v = s.setCtr i (counterUpd i s.cycle { c with count := (s.memRead a w).1, target := low v })

/-- R313: the deadline, as an exact product, for every record the machine can reach. -/
def Obligations.CounterDeadline : Prop :=
  ∀ (i : Fin 4) (now : Word) (c : Counter), counterOk i c →
    let u := counterUpd i now c
    let armed := (c.mode.getLsbD 4 = true ∨ c.mode.getLsbD 5 = true) ∧ ¬(i = 2 ∧ c.mode.getLsbD 0 = true)
    u = { c with sCycle := now, cycles := u.cycles } ∧
    (¬armed → u.cycles = none) ∧
    (armed → ∃ n : Word, u.cycles = some n ∧
      n.toNat = (if c.mode.getLsbD 4 then (c.target.toNat + 0x10000 - c.count.toNat) % 0x10000
                 else 0xFFFF - c.count.toNat) * c.rate.toNat)

/-- R314, R320, R321: an evaluation fires exactly the counters whose deadline has passed: each sets its I_STAT bit, restarts at
count 0, and a single-shot counter raises no further event; nothing else changes. -/
def Obligations.CounterCatchUp : Prop :=
  ∀ s : State, s.mem.wf = true → (∀ i : Fin 4, counterOk i s.ctr[i]) →
    let due : Fin 4 → Bool := fun i => match s.ctr[i].cycles with
      | none => false
      | some n => decide (n.toNat ≤ (s.cycle - s.ctr[i].sCycle).toNat)
    s.catchUp = { s with mem := s.catchUp.mem, ctr := s.catchUp.ctr } ∧
    (∀ st off, ¬(st = .io ∧ 0x1070 ≤ off ∧ off < 0x1074) → s.catchUp.mem.byte st off = s.mem.byte st off) ∧
    (∀ k, (s.catchUp.ioWord 0x1070).getLsbD k = ((s.ioWord 0x1070).getLsbD k ||
      (decide (k = 0) && due 3) || (decide (k = 4) && due 0) || (decide (k = 5) && due 1) || (decide (k = 6) && due 2))) ∧
    ∀ i : Fin 4,
      let u : Counter := counterUpd i s.cycle { s.ctr[i] with count := 0 }
      (due i = false → s.catchUp.ctr[i] = s.ctr[i]) ∧
      (due i = true → s.catchUp.ctr[i] = if s.ctr[i].mode.getLsbD 6 then u else { u with cycles := none })

/-- R322, the document's own scenario: target 100, then mode 0x10, stored in the cycle c; an evaluation before cycle c + 100 leaves
the counter and its bit alone, and one at that cycle sets bit 4, after which the counter raises no event. -/
def Obligations.CounterScenario : Prop :=
  ∀ (s : State) (d : Nat), s.mem.wf = true → (∀ i : Fin 4, counterOk i s.ctr[i]) → d ≤ 100 →
    let armed := ((s.memWrite 0x1F801108 .word 100).memWrite 0x1F801104 .word 0x10)
    let later : State := { armed with cycle := s.cycle + BitVec.ofNat 32 d }
    (later.memRead 0x1F801100 .word).1 = BitVec.ofNat 32 d ∧
    (d < 100 → later.catchUp.ctr[0] = later.ctr[0] ∧
      (later.catchUp.ioWord 0x1070).getLsbD 4 = (s.ioWord 0x1070).getLsbD 4) ∧
    (d = 100 → later.catchUp.ctr[0].cycles = none ∧ (later.catchUp.ioWord 0x1070).getLsbD 4 = true) ∧
    (s.params.firmware = .absent → later.evaluate.mem = later.catchUp.mem ∧ later.evaluate.ctr = later.catchUp.ctr)

/-! ## Reset, the invariant and the host's calls (70_reset_and_hazards.md) -/

/-- 10_state.md R42: the value reset leaves in every piece of state that the rule lists. -/
def Obligations.ResetValues : Prop :=
  (∀ r, State.reset.readReg r = 0) ∧ State.reset.hi = 0 ∧ State.reset.lo = 0 ∧ State.reset.pc = 0xBFC00000 ∧
  State.reset.code = 0 ∧ State.reset.cycle = 0 ∧ State.reset.slot = .none ∧
  (∀ r, State.reset.readCop0 r = if r = 12 then 0x10600000 else if r = 15 then 0x00000002 else 0) ∧
  (∀ st off, State.reset.mem.byte st off = 0) ∧ State.reset.cacheIsolated = false ∧
  State.reset.ctr[0] = ⟨0, 0, 0, 0, none, 1, 0x10⟩ ∧ State.reset.ctr[1] = ⟨0, 0, 0, 0, none, 1, 0x20⟩ ∧
  State.reset.ctr[2] = ⟨0, 0, 0, 0, none, 1, 0x40⟩ ∧ State.reset.ctr[3] = ⟨0, 0x58, 1, 0, some 564480, 564480, 0x01⟩

/-- The invariant of the model holds after reset. -/
def Obligations.InvAtReset : Prop := State.reset.Inv

/-- Every step keeps the invariant: memory canonical, register 0 zero (10_state.md R21), counter records legal (R39,
60_exceptions.md R312, R315, R321), a delay slot always fetched from an aligned address (R24, R25). -/
def Obligations.StepKeepsInv : Prop := ∀ s t : State, s.Inv → step s = .next t → t.Inv

/-- R355: `stepCycles(n)` adds n to the cycle counter. -/
def Obligations.StepCyclesCounts : Prop :=
  ∀ (n : Nat) (s t : State), State.stepCycles n s = .next t → t.cycle = s.cycle + BitVec.ofNat 32 n

/-- R340, R342, R345, R352, R354: `reset` leaves nothing of the state before but the parameters, and the ROM image it is given;
`launch` writes pc, x[29], x[28] and slot (that it keeps the load record is log 24, DESIGN CHOICE); `loadImage` puts each byte at
the place its own address reaches and changes nothing else; `runUntil` runs steps, none if pc is the target already, until pc is
the target for the first time, with the bound that R354 asks a model to give it (log 19, DESIGN CHOICE). -/
def Obligations.HostCalls : Prop :=
  (∀ (s : State) (status : Word) (image : List Byte), image.length ≤ 0x80000 →
    let t := s.hostReset status image
    t = { State.reset with params := s.params, cop0 := t.cop0, mem := t.mem } ∧
    (∀ r, t.readCop0 r = if r = 12 then status else State.reset.readCop0 r) ∧
    ∀ st off, t.mem.byte st off = if st = .rom then image[off]?.getD 0 else 0) ∧
  (∀ (s : State) (entry sp gp : Word),
    (s.launch entry sp gp).pc = entry ∧ (s.launch entry sp gp).slot = .none ∧
    (∀ r, (s.launch entry sp gp).readReg r = if r = 28 then gp else if r = 29 then sp else s.readReg r) ∧
    s.launch entry sp gp = { s with pc := entry, slot := .none, gpr := (s.launch entry sp gp).gpr }) ∧
  (∀ (s : State) (target : Word) (bound : Nat),
    let notYet (m : Nat) : Prop := ∃ u, State.stepCycles m s = .next u ∧ u.pc ≠ target
    (∀ t, State.runUntil target bound s = some (.next t) ↔
      ∃ n, n ≤ bound ∧ State.stepCycles n s = .next t ∧ t.pc = target ∧ ∀ m, m < n → notYet m) ∧
    (∀ why, State.runUntil target bound s = some (.refused why) ↔
      ∃ n, n < bound ∧ State.stepCycles (n + 1) s = .refused why ∧ ∀ m, m ≤ n → notYet m) ∧
    (∀ why, State.runUntil target bound s = some (.fault why) ↔
      ∃ n, n < bound ∧ State.stepCycles (n + 1) s = .fault why ∧ ∀ m, m ≤ n → notYet m) ∧
    (State.runUntil target bound s = none ↔ ∀ m, m ≤ bound → notYet m)) ∧
  ∀ (s : State) (a : Word) (bytes : List Byte), s.mem.wf = true → bytes.length ≤ 0x200000 →
    s.loadImage a bytes = { s with mem := (s.loadImage a bytes).mem } ∧
    (∀ (k : Nat) (b : Byte), bytes[k]? = some b → (s.resolve (a + BitVec.ofNat 32 k)).isSome = true →
      (s.loadImage a bytes).peek (a + BitVec.ofNat 32 k) = b) ∧
    ∀ st off, (∀ k, k < bytes.length → s.resolve (a + BitVec.ofNat 32 k) ≠ some (st, off)) →
      (s.loadImage a bytes).mem.byte st off = s.mem.byte st off

/-! ## What the spec leaves open, as the model settles it -/

/-- 44_branch_jump.md R199, the read-write path, under LOAD_DELAY_POLICY = lineage: a load-class instruction in the slot of a taken
transfer is skipped, its memory access included, exactly when the first instruction at the target reads and writes its destination
(and is not the second of an LWL/LWR pair, 70_reset_and_hazards.md R360) and no trap entry lies between: no interrupt is due at
the evaluation that ends the step, and the load takes no address error. No other load is skipped; one that completes leaves its
record, and leaves it to that evaluation whether the interrupt is taken and which word the next step fetches. The model's choices
(log 10, DEDUCED): a load that would take an address error is not skipped; a target that is misaligned or holds a no-op makes no
hazard. BLTZAL and BGEZAL count as writing register 31, taken or not (log 22, DESIGN CHOICE). -/
def Obligations.LineageSkipsLoads : Prop :=
  ∀ (s : State) (r : Reg) (merging : Bool),
    (s.lineageSkips r merging = true ↔
      s.params.loadDelay = .lineage ∧ r ≠ 0 ∧ s.catchUp.interruptCondition = false ∧
        ∃ t n, s.ctx.consumed = .taken t ∧ t.toNat % 4 = 0 ∧ decode (s.catchUp.fetch t) = .instr n ∧ r ∈ regsRead s.params n ∧
          regWritten n = some r ∧ ¬(merging = true ∧ ∃ base offset, n = .lwl base r offset ∨ n = .lwr base r offset)) ∧
    (∀ i : Instr, i.loads = some (r, merging) →
      (s.lineageSkips r merging = true →
        (∀ w b o, i.alignedAccess = some (w, b, o) →
          alignedFor w (s.effAddr b o) = true ∨ s.params.misaligned ≠ .addressError) →
        exec i s = .next s) ∧
      ∀ t, exec i s = .next t → t.ctx.trapped = false →
        (s.lineageSkips r merging = false → r ≠ 0 →
          t.loadDelay = some ⟨r, s.readReg r, merging, slotTaken s.ctx.consumed⟩) ∧
        t.catchUp.interruptCondition = s.catchUp.interruptCondition ∧ ∀ a, t.catchUp.fetch a = s.catchUp.fetch a) ∧
    (∀ (i : Instr) (u : State), i.loads = some (r, merging) → exec i s = .next u → u.ctx.trapped = false →
      s.slot = .none → s.ctx.held = none → s.params.firmware = .absent → s.catchUp.interruptCondition = true →
      ∀ t, s.ctx.consumed = .taken t →
        u.endStep.readReg r = u.readReg r ∧ u.endStep.loadDelay = none ∧ u.endStep.readCop0 epcReg = t)

/-- Two traps whose rules leave a case open. An overflow whose destination is register 0 traps as any other (log 21, DESIGN CHOICE:
R130 and 30_encoding.md R111 say that an instruction with destination 0 has no effect, R131, R141 and R143 make no exception for
it). SYSCALL and BREAK behind a branch that was not taken, under BD_ON_NOT_TAKEN = false, have BD = 0, and then EPC is their own
address, as R262 computes it from BD (log 17, DEDUCED). -/
def Obligations.TrapsTheSpecLeavesOpen : Prop :=
  (∀ (rs rt : Reg) (imm : Half) (s : State), s.params.overflowTraps = true →
    let a := (s.readReg rs).toInt
    let b := (s.readReg rt).toInt
    let overflows (x : Int) : Prop := ¬(-2 ^ 31 ≤ x ∧ x < 2 ^ 31)
    let traps (i : Instr) : Prop := ∃ t, exec i s = .next t ∧ t = s.raise .overflow s.bdFlag s.ia ∧
      (s.params.firmware = .absent → TrapEntered s t 12 false s.bdFlag s.ia)
    (overflows (a + imm.toInt) → traps (.addi rs 0 imm)) ∧
    (overflows (a + b) → traps (.add rs rt 0)) ∧
    (overflows (a - b) → traps (.sub rs rt 0))) ∧
  ∀ (code : BitVec 20) (s : State), s.ctx.consumed = .notTaken → s.params.bdOnNotTaken = false →
    s.bdFlag = false ∧
    (∃ t, exec (.syscall code) s = .next t ∧ t = s.raise .syscall false (s.pc - 4) ∧
      (s.params.firmware = .absent → TrapEntered s t 8 false false (s.pc - 4))) ∧
    (s.params.breakTraps = true →
      ∃ t, exec (.brk code) s = .next t ∧ t = s.raise .breakpoint false (s.pc - 4) ∧
        (s.params.firmware = .absent → TrapEntered s t 9 false false (s.pc - 4)))
end

