-- ==== Sys2Proof/Laws/State.lean ====
section
/-! SUPPORT. One lemma per field per update of State, true by rfl, and the reads through the accessors. -/

namespace Sys2Proof.Machine

/-! ### writeReg -/

@[simp] theorem writeReg_gpr (s : State) (r : Reg) (v : Word) : (s.writeReg r v).gpr = gprSet s.gpr r v := rfl
@[simp] theorem writeReg_hi (s : State) (r : Reg) (v : Word) : (s.writeReg r v).hi = s.hi := rfl
@[simp] theorem writeReg_lo (s : State) (r : Reg) (v : Word) : (s.writeReg r v).lo = s.lo := rfl
@[simp] theorem writeReg_pc (s : State) (r : Reg) (v : Word) : (s.writeReg r v).pc = s.pc := rfl
@[simp] theorem writeReg_code (s : State) (r : Reg) (v : Word) : (s.writeReg r v).code = s.code := rfl
@[simp] theorem writeReg_cycle (s : State) (r : Reg) (v : Word) : (s.writeReg r v).cycle = s.cycle := rfl
@[simp] theorem writeReg_slot (s : State) (r : Reg) (v : Word) : (s.writeReg r v).slot = s.slot := rfl
@[simp] theorem writeReg_cop0 (s : State) (r : Reg) (v : Word) : (s.writeReg r v).cop0 = s.cop0 := rfl
@[simp] theorem writeReg_mem (s : State) (r : Reg) (v : Word) : (s.writeReg r v).mem = s.mem := rfl
@[simp] theorem writeReg_cacheIsolated (s : State) (r : Reg) (v : Word) : (s.writeReg r v).cacheIsolated = s.cacheIsolated := rfl
@[simp] theorem writeReg_ctr (s : State) (r : Reg) (v : Word) : (s.writeReg r v).ctr = s.ctr := rfl
@[simp] theorem writeReg_loadDelay (s : State) (r : Reg) (v : Word) : (s.writeReg r v).loadDelay = s.loadDelay := rfl
@[simp] theorem writeReg_ctx (s : State) (r : Reg) (v : Word) : (s.writeReg r v).ctx = s.ctx := rfl
@[simp] theorem writeReg_params (s : State) (r : Reg) (v : Word) : (s.writeReg r v).params = s.params := rfl
@[simp] theorem writeReg_spuCalls (s : State) (r : Reg) (v : Word) : (s.writeReg r v).spuCalls = s.spuCalls := rfl
@[simp] theorem writeReg_firmwareCalls (s : State) (r : Reg) (v : Word) : (s.writeReg r v).firmwareCalls = s.firmwareCalls := rfl
@[simp] theorem writeReg_readCop0 (s : State) (r : Reg) (v : Word) (q : Reg) : (s.writeReg r v).readCop0 q = s.readCop0 q := rfl
@[simp] theorem writeReg_ioWord (s : State) (r : Reg) (v : Word) (k : Nat) : (s.writeReg r v).ioWord k = s.ioWord k := rfl
@[simp] theorem writeReg_resolve (s : State) (r : Reg) (v : Word) (a : Word) : (s.writeReg r v).resolve a = s.resolve a := rfl
@[simp] theorem writeReg_fetch (s : State) (r : Reg) (v : Word) (a : Word) : (s.writeReg r v).fetch a = s.fetch a := rfl

/-! ### setHi -/

@[simp] theorem setHi_gpr (s : State) (v : Word) : (s.setHi v).gpr = s.gpr := rfl
@[simp] theorem setHi_hi (s : State) (v : Word) : (s.setHi v).hi = v := rfl
@[simp] theorem setHi_lo (s : State) (v : Word) : (s.setHi v).lo = s.lo := rfl
@[simp] theorem setHi_pc (s : State) (v : Word) : (s.setHi v).pc = s.pc := rfl
@[simp] theorem setHi_code (s : State) (v : Word) : (s.setHi v).code = s.code := rfl
@[simp] theorem setHi_cycle (s : State) (v : Word) : (s.setHi v).cycle = s.cycle := rfl
@[simp] theorem setHi_slot (s : State) (v : Word) : (s.setHi v).slot = s.slot := rfl
@[simp] theorem setHi_cop0 (s : State) (v : Word) : (s.setHi v).cop0 = s.cop0 := rfl
@[simp] theorem setHi_mem (s : State) (v : Word) : (s.setHi v).mem = s.mem := rfl
@[simp] theorem setHi_cacheIsolated (s : State) (v : Word) : (s.setHi v).cacheIsolated = s.cacheIsolated := rfl
@[simp] theorem setHi_ctr (s : State) (v : Word) : (s.setHi v).ctr = s.ctr := rfl
@[simp] theorem setHi_loadDelay (s : State) (v : Word) : (s.setHi v).loadDelay = s.loadDelay := rfl
@[simp] theorem setHi_ctx (s : State) (v : Word) : (s.setHi v).ctx = s.ctx := rfl
@[simp] theorem setHi_params (s : State) (v : Word) : (s.setHi v).params = s.params := rfl
@[simp] theorem setHi_spuCalls (s : State) (v : Word) : (s.setHi v).spuCalls = s.spuCalls := rfl
@[simp] theorem setHi_firmwareCalls (s : State) (v : Word) : (s.setHi v).firmwareCalls = s.firmwareCalls := rfl
@[simp] theorem setHi_readReg (s : State) (v : Word) (q : Reg) : (s.setHi v).readReg q = s.readReg q := rfl
@[simp] theorem setHi_readCop0 (s : State) (v : Word) (q : Reg) : (s.setHi v).readCop0 q = s.readCop0 q := rfl
@[simp] theorem setHi_ioWord (s : State) (v : Word) (k : Nat) : (s.setHi v).ioWord k = s.ioWord k := rfl
@[simp] theorem setHi_resolve (s : State) (v : Word) (a : Word) : (s.setHi v).resolve a = s.resolve a := rfl
@[simp] theorem setHi_fetch (s : State) (v : Word) (a : Word) : (s.setHi v).fetch a = s.fetch a := rfl

/-! ### setLo -/

@[simp] theorem setLo_gpr (s : State) (v : Word) : (s.setLo v).gpr = s.gpr := rfl
@[simp] theorem setLo_hi (s : State) (v : Word) : (s.setLo v).hi = s.hi := rfl
@[simp] theorem setLo_lo (s : State) (v : Word) : (s.setLo v).lo = v := rfl
@[simp] theorem setLo_pc (s : State) (v : Word) : (s.setLo v).pc = s.pc := rfl
@[simp] theorem setLo_code (s : State) (v : Word) : (s.setLo v).code = s.code := rfl
@[simp] theorem setLo_cycle (s : State) (v : Word) : (s.setLo v).cycle = s.cycle := rfl
@[simp] theorem setLo_slot (s : State) (v : Word) : (s.setLo v).slot = s.slot := rfl
@[simp] theorem setLo_cop0 (s : State) (v : Word) : (s.setLo v).cop0 = s.cop0 := rfl
@[simp] theorem setLo_mem (s : State) (v : Word) : (s.setLo v).mem = s.mem := rfl
@[simp] theorem setLo_cacheIsolated (s : State) (v : Word) : (s.setLo v).cacheIsolated = s.cacheIsolated := rfl
@[simp] theorem setLo_ctr (s : State) (v : Word) : (s.setLo v).ctr = s.ctr := rfl
@[simp] theorem setLo_loadDelay (s : State) (v : Word) : (s.setLo v).loadDelay = s.loadDelay := rfl
@[simp] theorem setLo_ctx (s : State) (v : Word) : (s.setLo v).ctx = s.ctx := rfl
@[simp] theorem setLo_params (s : State) (v : Word) : (s.setLo v).params = s.params := rfl
@[simp] theorem setLo_spuCalls (s : State) (v : Word) : (s.setLo v).spuCalls = s.spuCalls := rfl
@[simp] theorem setLo_firmwareCalls (s : State) (v : Word) : (s.setLo v).firmwareCalls = s.firmwareCalls := rfl
@[simp] theorem setLo_readReg (s : State) (v : Word) (q : Reg) : (s.setLo v).readReg q = s.readReg q := rfl
@[simp] theorem setLo_readCop0 (s : State) (v : Word) (q : Reg) : (s.setLo v).readCop0 q = s.readCop0 q := rfl
@[simp] theorem setLo_ioWord (s : State) (v : Word) (k : Nat) : (s.setLo v).ioWord k = s.ioWord k := rfl
@[simp] theorem setLo_resolve (s : State) (v : Word) (a : Word) : (s.setLo v).resolve a = s.resolve a := rfl
@[simp] theorem setLo_fetch (s : State) (v : Word) (a : Word) : (s.setLo v).fetch a = s.fetch a := rfl

/-! ### setPc -/

@[simp] theorem setPc_gpr (s : State) (v : Word) : (s.setPc v).gpr = s.gpr := rfl
@[simp] theorem setPc_hi (s : State) (v : Word) : (s.setPc v).hi = s.hi := rfl
@[simp] theorem setPc_lo (s : State) (v : Word) : (s.setPc v).lo = s.lo := rfl
@[simp] theorem setPc_pc (s : State) (v : Word) : (s.setPc v).pc = v := rfl
@[simp] theorem setPc_code (s : State) (v : Word) : (s.setPc v).code = s.code := rfl
@[simp] theorem setPc_cycle (s : State) (v : Word) : (s.setPc v).cycle = s.cycle := rfl
@[simp] theorem setPc_slot (s : State) (v : Word) : (s.setPc v).slot = s.slot := rfl
@[simp] theorem setPc_cop0 (s : State) (v : Word) : (s.setPc v).cop0 = s.cop0 := rfl
@[simp] theorem setPc_mem (s : State) (v : Word) : (s.setPc v).mem = s.mem := rfl
@[simp] theorem setPc_cacheIsolated (s : State) (v : Word) : (s.setPc v).cacheIsolated = s.cacheIsolated := rfl
@[simp] theorem setPc_ctr (s : State) (v : Word) : (s.setPc v).ctr = s.ctr := rfl
@[simp] theorem setPc_loadDelay (s : State) (v : Word) : (s.setPc v).loadDelay = s.loadDelay := rfl
@[simp] theorem setPc_ctx (s : State) (v : Word) : (s.setPc v).ctx = s.ctx := rfl
@[simp] theorem setPc_params (s : State) (v : Word) : (s.setPc v).params = s.params := rfl
@[simp] theorem setPc_spuCalls (s : State) (v : Word) : (s.setPc v).spuCalls = s.spuCalls := rfl
@[simp] theorem setPc_firmwareCalls (s : State) (v : Word) : (s.setPc v).firmwareCalls = s.firmwareCalls := rfl
@[simp] theorem setPc_readReg (s : State) (v : Word) (q : Reg) : (s.setPc v).readReg q = s.readReg q := rfl
@[simp] theorem setPc_readCop0 (s : State) (v : Word) (q : Reg) : (s.setPc v).readCop0 q = s.readCop0 q := rfl
@[simp] theorem setPc_ioWord (s : State) (v : Word) (k : Nat) : (s.setPc v).ioWord k = s.ioWord k := rfl
@[simp] theorem setPc_resolve (s : State) (v : Word) (a : Word) : (s.setPc v).resolve a = s.resolve a := rfl
@[simp] theorem setPc_fetch (s : State) (v : Word) (a : Word) : (s.setPc v).fetch a = s.fetch a := rfl

/-! ### setSlot -/

@[simp] theorem setSlot_gpr (s : State) (d : Slot) : (s.setSlot d).gpr = s.gpr := rfl
@[simp] theorem setSlot_hi (s : State) (d : Slot) : (s.setSlot d).hi = s.hi := rfl
@[simp] theorem setSlot_lo (s : State) (d : Slot) : (s.setSlot d).lo = s.lo := rfl
@[simp] theorem setSlot_pc (s : State) (d : Slot) : (s.setSlot d).pc = s.pc := rfl
@[simp] theorem setSlot_code (s : State) (d : Slot) : (s.setSlot d).code = s.code := rfl
@[simp] theorem setSlot_cycle (s : State) (d : Slot) : (s.setSlot d).cycle = s.cycle := rfl
@[simp] theorem setSlot_slot (s : State) (d : Slot) : (s.setSlot d).slot = d := rfl
@[simp] theorem setSlot_cop0 (s : State) (d : Slot) : (s.setSlot d).cop0 = s.cop0 := rfl
@[simp] theorem setSlot_mem (s : State) (d : Slot) : (s.setSlot d).mem = s.mem := rfl
@[simp] theorem setSlot_cacheIsolated (s : State) (d : Slot) : (s.setSlot d).cacheIsolated = s.cacheIsolated := rfl
@[simp] theorem setSlot_ctr (s : State) (d : Slot) : (s.setSlot d).ctr = s.ctr := rfl
@[simp] theorem setSlot_loadDelay (s : State) (d : Slot) : (s.setSlot d).loadDelay = s.loadDelay := rfl
@[simp] theorem setSlot_ctx (s : State) (d : Slot) : (s.setSlot d).ctx = s.ctx := rfl
@[simp] theorem setSlot_params (s : State) (d : Slot) : (s.setSlot d).params = s.params := rfl
@[simp] theorem setSlot_spuCalls (s : State) (d : Slot) : (s.setSlot d).spuCalls = s.spuCalls := rfl
@[simp] theorem setSlot_firmwareCalls (s : State) (d : Slot) : (s.setSlot d).firmwareCalls = s.firmwareCalls := rfl
@[simp] theorem setSlot_readReg (s : State) (d : Slot) (q : Reg) : (s.setSlot d).readReg q = s.readReg q := rfl
@[simp] theorem setSlot_readCop0 (s : State) (d : Slot) (q : Reg) : (s.setSlot d).readCop0 q = s.readCop0 q := rfl
@[simp] theorem setSlot_ioWord (s : State) (d : Slot) (k : Nat) : (s.setSlot d).ioWord k = s.ioWord k := rfl
@[simp] theorem setSlot_resolve (s : State) (d : Slot) (a : Word) : (s.setSlot d).resolve a = s.resolve a := rfl
@[simp] theorem setSlot_fetch (s : State) (d : Slot) (a : Word) : (s.setSlot d).fetch a = s.fetch a := rfl

/-! ### writeCop0 -/

@[simp] theorem writeCop0_gpr (s : State) (r : Reg) (v : Word) : (s.writeCop0 r v).gpr = s.gpr := rfl
@[simp] theorem writeCop0_hi (s : State) (r : Reg) (v : Word) : (s.writeCop0 r v).hi = s.hi := rfl
@[simp] theorem writeCop0_lo (s : State) (r : Reg) (v : Word) : (s.writeCop0 r v).lo = s.lo := rfl
@[simp] theorem writeCop0_pc (s : State) (r : Reg) (v : Word) : (s.writeCop0 r v).pc = s.pc := rfl
@[simp] theorem writeCop0_code (s : State) (r : Reg) (v : Word) : (s.writeCop0 r v).code = s.code := rfl
@[simp] theorem writeCop0_cycle (s : State) (r : Reg) (v : Word) : (s.writeCop0 r v).cycle = s.cycle := rfl
@[simp] theorem writeCop0_slot (s : State) (r : Reg) (v : Word) : (s.writeCop0 r v).slot = s.slot := rfl
@[simp] theorem writeCop0_cop0 (s : State) (r : Reg) (v : Word) : (s.writeCop0 r v).cop0 = s.cop0.set r.toNat v r.isLt := rfl
@[simp] theorem writeCop0_mem (s : State) (r : Reg) (v : Word) : (s.writeCop0 r v).mem = s.mem := rfl
@[simp] theorem writeCop0_cacheIsolated (s : State) (r : Reg) (v : Word) : (s.writeCop0 r v).cacheIsolated = s.cacheIsolated := rfl
@[simp] theorem writeCop0_ctr (s : State) (r : Reg) (v : Word) : (s.writeCop0 r v).ctr = s.ctr := rfl
@[simp] theorem writeCop0_loadDelay (s : State) (r : Reg) (v : Word) : (s.writeCop0 r v).loadDelay = s.loadDelay := rfl
@[simp] theorem writeCop0_ctx (s : State) (r : Reg) (v : Word) : (s.writeCop0 r v).ctx = s.ctx := rfl
@[simp] theorem writeCop0_params (s : State) (r : Reg) (v : Word) : (s.writeCop0 r v).params = s.params := rfl
@[simp] theorem writeCop0_spuCalls (s : State) (r : Reg) (v : Word) : (s.writeCop0 r v).spuCalls = s.spuCalls := rfl
@[simp] theorem writeCop0_firmwareCalls (s : State) (r : Reg) (v : Word) : (s.writeCop0 r v).firmwareCalls = s.firmwareCalls := rfl
@[simp] theorem writeCop0_readReg (s : State) (r : Reg) (v : Word) (q : Reg) : (s.writeCop0 r v).readReg q = s.readReg q := rfl
@[simp] theorem writeCop0_ioWord (s : State) (r : Reg) (v : Word) (k : Nat) : (s.writeCop0 r v).ioWord k = s.ioWord k := rfl
@[simp] theorem writeCop0_resolve (s : State) (r : Reg) (v : Word) (a : Word) : (s.writeCop0 r v).resolve a = s.resolve a := rfl
@[simp] theorem writeCop0_fetch (s : State) (r : Reg) (v : Word) (a : Word) : (s.writeCop0 r v).fetch a = s.fetch a := rfl

/-! ### setMem -/

@[simp] theorem setMem_gpr (s : State) (m : Memory) : (s.setMem m).gpr = s.gpr := rfl
@[simp] theorem setMem_hi (s : State) (m : Memory) : (s.setMem m).hi = s.hi := rfl
@[simp] theorem setMem_lo (s : State) (m : Memory) : (s.setMem m).lo = s.lo := rfl
@[simp] theorem setMem_pc (s : State) (m : Memory) : (s.setMem m).pc = s.pc := rfl
@[simp] theorem setMem_code (s : State) (m : Memory) : (s.setMem m).code = s.code := rfl
@[simp] theorem setMem_cycle (s : State) (m : Memory) : (s.setMem m).cycle = s.cycle := rfl
@[simp] theorem setMem_slot (s : State) (m : Memory) : (s.setMem m).slot = s.slot := rfl
@[simp] theorem setMem_cop0 (s : State) (m : Memory) : (s.setMem m).cop0 = s.cop0 := rfl
@[simp] theorem setMem_mem (s : State) (m : Memory) : (s.setMem m).mem = m := rfl
@[simp] theorem setMem_cacheIsolated (s : State) (m : Memory) : (s.setMem m).cacheIsolated = s.cacheIsolated := rfl
@[simp] theorem setMem_ctr (s : State) (m : Memory) : (s.setMem m).ctr = s.ctr := rfl
@[simp] theorem setMem_loadDelay (s : State) (m : Memory) : (s.setMem m).loadDelay = s.loadDelay := rfl
@[simp] theorem setMem_ctx (s : State) (m : Memory) : (s.setMem m).ctx = s.ctx := rfl
@[simp] theorem setMem_params (s : State) (m : Memory) : (s.setMem m).params = s.params := rfl
@[simp] theorem setMem_spuCalls (s : State) (m : Memory) : (s.setMem m).spuCalls = s.spuCalls := rfl
@[simp] theorem setMem_firmwareCalls (s : State) (m : Memory) : (s.setMem m).firmwareCalls = s.firmwareCalls := rfl
@[simp] theorem setMem_readReg (s : State) (m : Memory) (q : Reg) : (s.setMem m).readReg q = s.readReg q := rfl
@[simp] theorem setMem_readCop0 (s : State) (m : Memory) (q : Reg) : (s.setMem m).readCop0 q = s.readCop0 q := rfl
@[simp] theorem setMem_resolve (s : State) (m : Memory) (a : Word) : (s.setMem m).resolve a = s.resolve a := rfl

/-! ### setIsolated -/

@[simp] theorem setIsolated_gpr (s : State) (b : Bool) : (s.setIsolated b).gpr = s.gpr := rfl
@[simp] theorem setIsolated_hi (s : State) (b : Bool) : (s.setIsolated b).hi = s.hi := rfl
@[simp] theorem setIsolated_lo (s : State) (b : Bool) : (s.setIsolated b).lo = s.lo := rfl
@[simp] theorem setIsolated_pc (s : State) (b : Bool) : (s.setIsolated b).pc = s.pc := rfl
@[simp] theorem setIsolated_code (s : State) (b : Bool) : (s.setIsolated b).code = s.code := rfl
@[simp] theorem setIsolated_cycle (s : State) (b : Bool) : (s.setIsolated b).cycle = s.cycle := rfl
@[simp] theorem setIsolated_slot (s : State) (b : Bool) : (s.setIsolated b).slot = s.slot := rfl
@[simp] theorem setIsolated_cop0 (s : State) (b : Bool) : (s.setIsolated b).cop0 = s.cop0 := rfl
@[simp] theorem setIsolated_mem (s : State) (b : Bool) : (s.setIsolated b).mem = s.mem := rfl
@[simp] theorem setIsolated_cacheIsolated (s : State) (b : Bool) : (s.setIsolated b).cacheIsolated = b := rfl
@[simp] theorem setIsolated_ctr (s : State) (b : Bool) : (s.setIsolated b).ctr = s.ctr := rfl
@[simp] theorem setIsolated_loadDelay (s : State) (b : Bool) : (s.setIsolated b).loadDelay = s.loadDelay := rfl
@[simp] theorem setIsolated_ctx (s : State) (b : Bool) : (s.setIsolated b).ctx = s.ctx := rfl
@[simp] theorem setIsolated_params (s : State) (b : Bool) : (s.setIsolated b).params = s.params := rfl
@[simp] theorem setIsolated_spuCalls (s : State) (b : Bool) : (s.setIsolated b).spuCalls = s.spuCalls := rfl
@[simp] theorem setIsolated_firmwareCalls (s : State) (b : Bool) : (s.setIsolated b).firmwareCalls = s.firmwareCalls := rfl
@[simp] theorem setIsolated_readReg (s : State) (b : Bool) (q : Reg) : (s.setIsolated b).readReg q = s.readReg q := rfl
@[simp] theorem setIsolated_readCop0 (s : State) (b : Bool) (q : Reg) : (s.setIsolated b).readCop0 q = s.readCop0 q := rfl
@[simp] theorem setIsolated_ioWord (s : State) (b : Bool) (k : Nat) : (s.setIsolated b).ioWord k = s.ioWord k := rfl

/-! ### setCtr -/

@[simp] theorem setCtr_gpr (s : State) (i : Fin 4) (c : Counter) : (s.setCtr i c).gpr = s.gpr := rfl
@[simp] theorem setCtr_hi (s : State) (i : Fin 4) (c : Counter) : (s.setCtr i c).hi = s.hi := rfl
@[simp] theorem setCtr_lo (s : State) (i : Fin 4) (c : Counter) : (s.setCtr i c).lo = s.lo := rfl
@[simp] theorem setCtr_pc (s : State) (i : Fin 4) (c : Counter) : (s.setCtr i c).pc = s.pc := rfl
@[simp] theorem setCtr_code (s : State) (i : Fin 4) (c : Counter) : (s.setCtr i c).code = s.code := rfl
@[simp] theorem setCtr_cycle (s : State) (i : Fin 4) (c : Counter) : (s.setCtr i c).cycle = s.cycle := rfl
@[simp] theorem setCtr_slot (s : State) (i : Fin 4) (c : Counter) : (s.setCtr i c).slot = s.slot := rfl
@[simp] theorem setCtr_cop0 (s : State) (i : Fin 4) (c : Counter) : (s.setCtr i c).cop0 = s.cop0 := rfl
@[simp] theorem setCtr_mem (s : State) (i : Fin 4) (c : Counter) : (s.setCtr i c).mem = s.mem := rfl
@[simp] theorem setCtr_cacheIsolated (s : State) (i : Fin 4) (c : Counter) : (s.setCtr i c).cacheIsolated = s.cacheIsolated := rfl
@[simp] theorem setCtr_ctr (s : State) (i : Fin 4) (c : Counter) : (s.setCtr i c).ctr = s.ctr.set i c := rfl
@[simp] theorem setCtr_loadDelay (s : State) (i : Fin 4) (c : Counter) : (s.setCtr i c).loadDelay = s.loadDelay := rfl
@[simp] theorem setCtr_ctx (s : State) (i : Fin 4) (c : Counter) : (s.setCtr i c).ctx = s.ctx := rfl
@[simp] theorem setCtr_params (s : State) (i : Fin 4) (c : Counter) : (s.setCtr i c).params = s.params := rfl
@[simp] theorem setCtr_spuCalls (s : State) (i : Fin 4) (c : Counter) : (s.setCtr i c).spuCalls = s.spuCalls := rfl
@[simp] theorem setCtr_firmwareCalls (s : State) (i : Fin 4) (c : Counter) : (s.setCtr i c).firmwareCalls = s.firmwareCalls := rfl
@[simp] theorem setCtr_readReg (s : State) (i : Fin 4) (c : Counter) (q : Reg) : (s.setCtr i c).readReg q = s.readReg q := rfl
@[simp] theorem setCtr_readCop0 (s : State) (i : Fin 4) (c : Counter) (q : Reg) : (s.setCtr i c).readCop0 q = s.readCop0 q := rfl
@[simp] theorem setCtr_ioWord (s : State) (i : Fin 4) (c : Counter) (k : Nat) : (s.setCtr i c).ioWord k = s.ioWord k := rfl
@[simp] theorem setCtr_resolve (s : State) (i : Fin 4) (c : Counter) (a : Word) : (s.setCtr i c).resolve a = s.resolve a := rfl
@[simp] theorem setCtr_fetch (s : State) (i : Fin 4) (c : Counter) (a : Word) : (s.setCtr i c).fetch a = s.fetch a := rfl

/-! ### setLoadDelay -/

@[simp] theorem setLoadDelay_gpr (s : State) (d : Option LoadDelay) : (s.setLoadDelay d).gpr = s.gpr := rfl
@[simp] theorem setLoadDelay_hi (s : State) (d : Option LoadDelay) : (s.setLoadDelay d).hi = s.hi := rfl
@[simp] theorem setLoadDelay_lo (s : State) (d : Option LoadDelay) : (s.setLoadDelay d).lo = s.lo := rfl
@[simp] theorem setLoadDelay_pc (s : State) (d : Option LoadDelay) : (s.setLoadDelay d).pc = s.pc := rfl
@[simp] theorem setLoadDelay_code (s : State) (d : Option LoadDelay) : (s.setLoadDelay d).code = s.code := rfl
@[simp] theorem setLoadDelay_cycle (s : State) (d : Option LoadDelay) : (s.setLoadDelay d).cycle = s.cycle := rfl
@[simp] theorem setLoadDelay_slot (s : State) (d : Option LoadDelay) : (s.setLoadDelay d).slot = s.slot := rfl
@[simp] theorem setLoadDelay_cop0 (s : State) (d : Option LoadDelay) : (s.setLoadDelay d).cop0 = s.cop0 := rfl
@[simp] theorem setLoadDelay_mem (s : State) (d : Option LoadDelay) : (s.setLoadDelay d).mem = s.mem := rfl
@[simp] theorem setLoadDelay_cacheIsolated (s : State) (d : Option LoadDelay) : (s.setLoadDelay d).cacheIsolated = s.cacheIsolated := rfl
@[simp] theorem setLoadDelay_ctr (s : State) (d : Option LoadDelay) : (s.setLoadDelay d).ctr = s.ctr := rfl
@[simp] theorem setLoadDelay_loadDelay (s : State) (d : Option LoadDelay) : (s.setLoadDelay d).loadDelay = d := rfl
@[simp] theorem setLoadDelay_ctx (s : State) (d : Option LoadDelay) : (s.setLoadDelay d).ctx = s.ctx := rfl
@[simp] theorem setLoadDelay_params (s : State) (d : Option LoadDelay) : (s.setLoadDelay d).params = s.params := rfl
@[simp] theorem setLoadDelay_spuCalls (s : State) (d : Option LoadDelay) : (s.setLoadDelay d).spuCalls = s.spuCalls := rfl
@[simp] theorem setLoadDelay_firmwareCalls (s : State) (d : Option LoadDelay) : (s.setLoadDelay d).firmwareCalls = s.firmwareCalls := rfl
@[simp] theorem setLoadDelay_readReg (s : State) (d : Option LoadDelay) (q : Reg) : (s.setLoadDelay d).readReg q = s.readReg q := rfl
@[simp] theorem setLoadDelay_readCop0 (s : State) (d : Option LoadDelay) (q : Reg) : (s.setLoadDelay d).readCop0 q = s.readCop0 q := rfl
@[simp] theorem setLoadDelay_ioWord (s : State) (d : Option LoadDelay) (k : Nat) : (s.setLoadDelay d).ioWord k = s.ioWord k := rfl
@[simp] theorem setLoadDelay_resolve (s : State) (d : Option LoadDelay) (a : Word) : (s.setLoadDelay d).resolve a = s.resolve a := rfl
@[simp] theorem setLoadDelay_fetch (s : State) (d : Option LoadDelay) (a : Word) : (s.setLoadDelay d).fetch a = s.fetch a := rfl

/-! ### setTrapped -/

@[simp] theorem setTrapped_gpr (s : State) : (s.setTrapped).gpr = s.gpr := rfl
@[simp] theorem setTrapped_hi (s : State) : (s.setTrapped).hi = s.hi := rfl
@[simp] theorem setTrapped_lo (s : State) : (s.setTrapped).lo = s.lo := rfl
@[simp] theorem setTrapped_pc (s : State) : (s.setTrapped).pc = s.pc := rfl
@[simp] theorem setTrapped_code (s : State) : (s.setTrapped).code = s.code := rfl
@[simp] theorem setTrapped_cycle (s : State) : (s.setTrapped).cycle = s.cycle := rfl
@[simp] theorem setTrapped_slot (s : State) : (s.setTrapped).slot = s.slot := rfl
@[simp] theorem setTrapped_cop0 (s : State) : (s.setTrapped).cop0 = s.cop0 := rfl
@[simp] theorem setTrapped_mem (s : State) : (s.setTrapped).mem = s.mem := rfl
@[simp] theorem setTrapped_cacheIsolated (s : State) : (s.setTrapped).cacheIsolated = s.cacheIsolated := rfl
@[simp] theorem setTrapped_ctr (s : State) : (s.setTrapped).ctr = s.ctr := rfl
@[simp] theorem setTrapped_loadDelay (s : State) : (s.setTrapped).loadDelay = s.loadDelay := rfl
@[simp] theorem setTrapped_ctx (s : State) : (s.setTrapped).ctx = { s.ctx with trapped := true } := rfl
@[simp] theorem setTrapped_params (s : State) : (s.setTrapped).params = s.params := rfl
@[simp] theorem setTrapped_spuCalls (s : State) : (s.setTrapped).spuCalls = s.spuCalls := rfl
@[simp] theorem setTrapped_firmwareCalls (s : State) : (s.setTrapped).firmwareCalls = s.firmwareCalls := rfl
@[simp] theorem setTrapped_readReg (s : State) (q : Reg) : (s.setTrapped).readReg q = s.readReg q := rfl
@[simp] theorem setTrapped_readCop0 (s : State) (q : Reg) : (s.setTrapped).readCop0 q = s.readCop0 q := rfl
@[simp] theorem setTrapped_ioWord (s : State) (k : Nat) : (s.setTrapped).ioWord k = s.ioWord k := rfl
@[simp] theorem setTrapped_resolve (s : State) (a : Word) : (s.setTrapped).resolve a = s.resolve a := rfl
@[simp] theorem setTrapped_fetch (s : State) (a : Word) : (s.setTrapped).fetch a = s.fetch a := rfl

/-! ### setHeld -/

@[simp] theorem setHeld_gpr (s : State) (h : Option HeldLoad) : (s.setHeld h).gpr = s.gpr := rfl
@[simp] theorem setHeld_hi (s : State) (h : Option HeldLoad) : (s.setHeld h).hi = s.hi := rfl
@[simp] theorem setHeld_lo (s : State) (h : Option HeldLoad) : (s.setHeld h).lo = s.lo := rfl
@[simp] theorem setHeld_pc (s : State) (h : Option HeldLoad) : (s.setHeld h).pc = s.pc := rfl
@[simp] theorem setHeld_code (s : State) (h : Option HeldLoad) : (s.setHeld h).code = s.code := rfl
@[simp] theorem setHeld_cycle (s : State) (h : Option HeldLoad) : (s.setHeld h).cycle = s.cycle := rfl
@[simp] theorem setHeld_slot (s : State) (h : Option HeldLoad) : (s.setHeld h).slot = s.slot := rfl
@[simp] theorem setHeld_cop0 (s : State) (h : Option HeldLoad) : (s.setHeld h).cop0 = s.cop0 := rfl
@[simp] theorem setHeld_mem (s : State) (h : Option HeldLoad) : (s.setHeld h).mem = s.mem := rfl
@[simp] theorem setHeld_cacheIsolated (s : State) (h : Option HeldLoad) : (s.setHeld h).cacheIsolated = s.cacheIsolated := rfl
@[simp] theorem setHeld_ctr (s : State) (h : Option HeldLoad) : (s.setHeld h).ctr = s.ctr := rfl
@[simp] theorem setHeld_loadDelay (s : State) (h : Option HeldLoad) : (s.setHeld h).loadDelay = s.loadDelay := rfl
@[simp] theorem setHeld_ctx (s : State) (h : Option HeldLoad) : (s.setHeld h).ctx = { s.ctx with held := h } := rfl
@[simp] theorem setHeld_params (s : State) (h : Option HeldLoad) : (s.setHeld h).params = s.params := rfl
@[simp] theorem setHeld_spuCalls (s : State) (h : Option HeldLoad) : (s.setHeld h).spuCalls = s.spuCalls := rfl
@[simp] theorem setHeld_firmwareCalls (s : State) (h : Option HeldLoad) : (s.setHeld h).firmwareCalls = s.firmwareCalls := rfl
@[simp] theorem setHeld_readReg (s : State) (h : Option HeldLoad) (q : Reg) : (s.setHeld h).readReg q = s.readReg q := rfl
@[simp] theorem setHeld_readCop0 (s : State) (h : Option HeldLoad) (q : Reg) : (s.setHeld h).readCop0 q = s.readCop0 q := rfl
@[simp] theorem setHeld_ioWord (s : State) (h : Option HeldLoad) (k : Nat) : (s.setHeld h).ioWord k = s.ioWord k := rfl
@[simp] theorem setHeld_resolve (s : State) (h : Option HeldLoad) (a : Word) : (s.setHeld h).resolve a = s.resolve a := rfl
@[simp] theorem setHeld_fetch (s : State) (h : Option HeldLoad) (a : Word) : (s.setHeld h).fetch a = s.fetch a := rfl

/-! ### endCtx -/

@[simp] theorem endCtx_gpr (s : State) : (s.endCtx).gpr = s.gpr := rfl
@[simp] theorem endCtx_hi (s : State) : (s.endCtx).hi = s.hi := rfl
@[simp] theorem endCtx_lo (s : State) : (s.endCtx).lo = s.lo := rfl
@[simp] theorem endCtx_pc (s : State) : (s.endCtx).pc = s.pc := rfl
@[simp] theorem endCtx_code (s : State) : (s.endCtx).code = s.code := rfl
@[simp] theorem endCtx_cycle (s : State) : (s.endCtx).cycle = s.cycle := rfl
@[simp] theorem endCtx_slot (s : State) : (s.endCtx).slot = s.slot := rfl
@[simp] theorem endCtx_cop0 (s : State) : (s.endCtx).cop0 = s.cop0 := rfl
@[simp] theorem endCtx_mem (s : State) : (s.endCtx).mem = s.mem := rfl
@[simp] theorem endCtx_cacheIsolated (s : State) : (s.endCtx).cacheIsolated = s.cacheIsolated := rfl
@[simp] theorem endCtx_ctr (s : State) : (s.endCtx).ctr = s.ctr := rfl
@[simp] theorem endCtx_loadDelay (s : State) : (s.endCtx).loadDelay = s.loadDelay := rfl
@[simp] theorem endCtx_ctx (s : State) : (s.endCtx).ctx = StepCtx.idle := rfl
@[simp] theorem endCtx_params (s : State) : (s.endCtx).params = s.params := rfl
@[simp] theorem endCtx_spuCalls (s : State) : (s.endCtx).spuCalls = s.spuCalls := rfl
@[simp] theorem endCtx_firmwareCalls (s : State) : (s.endCtx).firmwareCalls = s.firmwareCalls := rfl
@[simp] theorem endCtx_readReg (s : State) (q : Reg) : (s.endCtx).readReg q = s.readReg q := rfl
@[simp] theorem endCtx_readCop0 (s : State) (q : Reg) : (s.endCtx).readCop0 q = s.readCop0 q := rfl
@[simp] theorem endCtx_ioWord (s : State) (k : Nat) : (s.endCtx).ioWord k = s.ioWord k := rfl
@[simp] theorem endCtx_resolve (s : State) (a : Word) : (s.endCtx).resolve a = s.resolve a := rfl
@[simp] theorem endCtx_fetch (s : State) (a : Word) : (s.endCtx).fetch a = s.fetch a := rfl

/-! ### logSpu -/

@[simp] theorem logSpu_gpr (s : State) (c : SpuCall) : (s.logSpu c).gpr = s.gpr := rfl
@[simp] theorem logSpu_hi (s : State) (c : SpuCall) : (s.logSpu c).hi = s.hi := rfl
@[simp] theorem logSpu_lo (s : State) (c : SpuCall) : (s.logSpu c).lo = s.lo := rfl
@[simp] theorem logSpu_pc (s : State) (c : SpuCall) : (s.logSpu c).pc = s.pc := rfl
@[simp] theorem logSpu_code (s : State) (c : SpuCall) : (s.logSpu c).code = s.code := rfl
@[simp] theorem logSpu_cycle (s : State) (c : SpuCall) : (s.logSpu c).cycle = s.cycle := rfl
@[simp] theorem logSpu_slot (s : State) (c : SpuCall) : (s.logSpu c).slot = s.slot := rfl
@[simp] theorem logSpu_cop0 (s : State) (c : SpuCall) : (s.logSpu c).cop0 = s.cop0 := rfl
@[simp] theorem logSpu_mem (s : State) (c : SpuCall) : (s.logSpu c).mem = s.mem := rfl
@[simp] theorem logSpu_cacheIsolated (s : State) (c : SpuCall) : (s.logSpu c).cacheIsolated = s.cacheIsolated := rfl
@[simp] theorem logSpu_ctr (s : State) (c : SpuCall) : (s.logSpu c).ctr = s.ctr := rfl
@[simp] theorem logSpu_loadDelay (s : State) (c : SpuCall) : (s.logSpu c).loadDelay = s.loadDelay := rfl
@[simp] theorem logSpu_ctx (s : State) (c : SpuCall) : (s.logSpu c).ctx = s.ctx := rfl
@[simp] theorem logSpu_params (s : State) (c : SpuCall) : (s.logSpu c).params = s.params := rfl
@[simp] theorem logSpu_spuCalls (s : State) (c : SpuCall) : (s.logSpu c).spuCalls = c :: s.spuCalls := rfl
@[simp] theorem logSpu_firmwareCalls (s : State) (c : SpuCall) : (s.logSpu c).firmwareCalls = s.firmwareCalls := rfl
@[simp] theorem logSpu_readReg (s : State) (c : SpuCall) (q : Reg) : (s.logSpu c).readReg q = s.readReg q := rfl
@[simp] theorem logSpu_readCop0 (s : State) (c : SpuCall) (q : Reg) : (s.logSpu c).readCop0 q = s.readCop0 q := rfl
@[simp] theorem logSpu_ioWord (s : State) (c : SpuCall) (k : Nat) : (s.logSpu c).ioWord k = s.ioWord k := rfl
@[simp] theorem logSpu_resolve (s : State) (c : SpuCall) (a : Word) : (s.logSpu c).resolve a = s.resolve a := rfl
@[simp] theorem logSpu_fetch (s : State) (c : SpuCall) (a : Word) : (s.logSpu c).fetch a = s.fetch a := rfl

/-! ### startStep -/

@[simp] theorem startStep_gpr (s : State) (w : Word) : (s.startStep w).gpr = s.gpr := rfl
@[simp] theorem startStep_hi (s : State) (w : Word) : (s.startStep w).hi = s.hi := rfl
@[simp] theorem startStep_lo (s : State) (w : Word) : (s.startStep w).lo = s.lo := rfl
@[simp] theorem startStep_pc (s : State) (w : Word) : (s.startStep w).pc = s.pc + 4 := rfl
@[simp] theorem startStep_code (s : State) (w : Word) : (s.startStep w).code = w := rfl
@[simp] theorem startStep_cycle (s : State) (w : Word) : (s.startStep w).cycle = s.cycle + 1 := rfl
@[simp] theorem startStep_slot (s : State) (w : Word) : (s.startStep w).slot = .none := rfl
@[simp] theorem startStep_cop0 (s : State) (w : Word) : (s.startStep w).cop0 = s.cop0 := rfl
@[simp] theorem startStep_mem (s : State) (w : Word) : (s.startStep w).mem = s.mem := rfl
@[simp] theorem startStep_cacheIsolated (s : State) (w : Word) : (s.startStep w).cacheIsolated = s.cacheIsolated := rfl
@[simp] theorem startStep_ctr (s : State) (w : Word) : (s.startStep w).ctr = s.ctr := rfl
@[simp] theorem startStep_loadDelay (s : State) (w : Word) : (s.startStep w).loadDelay = none := rfl
@[simp] theorem startStep_ctx (s : State) (w : Word) : (s.startStep w).ctx = ⟨s.slot, false, none⟩ := rfl
@[simp] theorem startStep_params (s : State) (w : Word) : (s.startStep w).params = s.params := rfl
@[simp] theorem startStep_spuCalls (s : State) (w : Word) : (s.startStep w).spuCalls = s.spuCalls := rfl
@[simp] theorem startStep_firmwareCalls (s : State) (w : Word) : (s.startStep w).firmwareCalls = s.firmwareCalls := rfl
@[simp] theorem startStep_readReg (s : State) (w : Word) (q : Reg) : (s.startStep w).readReg q = s.readReg q := rfl
@[simp] theorem startStep_readCop0 (s : State) (w : Word) (q : Reg) : (s.startStep w).readCop0 q = s.readCop0 q := rfl
@[simp] theorem startStep_ioWord (s : State) (w : Word) (k : Nat) : (s.startStep w).ioWord k = s.ioWord k := rfl
@[simp] theorem startStep_resolve (s : State) (w : Word) (a : Word) : (s.startStep w).resolve a = s.resolve a := rfl
@[simp] theorem startStep_fetch (s : State) (w : Word) (a : Word) : (s.startStep w).fetch a = s.fetch a := rfl

/-! ### setIoWord -/

@[simp] theorem setIoWord_gpr (s : State) (o : Nat) (v : Word) : (s.setIoWord o v).gpr = s.gpr := rfl
@[simp] theorem setIoWord_hi (s : State) (o : Nat) (v : Word) : (s.setIoWord o v).hi = s.hi := rfl
@[simp] theorem setIoWord_lo (s : State) (o : Nat) (v : Word) : (s.setIoWord o v).lo = s.lo := rfl
@[simp] theorem setIoWord_pc (s : State) (o : Nat) (v : Word) : (s.setIoWord o v).pc = s.pc := rfl
@[simp] theorem setIoWord_code (s : State) (o : Nat) (v : Word) : (s.setIoWord o v).code = s.code := rfl
@[simp] theorem setIoWord_cycle (s : State) (o : Nat) (v : Word) : (s.setIoWord o v).cycle = s.cycle := rfl
@[simp] theorem setIoWord_slot (s : State) (o : Nat) (v : Word) : (s.setIoWord o v).slot = s.slot := rfl
@[simp] theorem setIoWord_cop0 (s : State) (o : Nat) (v : Word) : (s.setIoWord o v).cop0 = s.cop0 := rfl
@[simp] theorem setIoWord_mem (s : State) (o : Nat) (v : Word) : (s.setIoWord o v).mem = s.mem.setWord .io o v := rfl
@[simp] theorem setIoWord_cacheIsolated (s : State) (o : Nat) (v : Word) : (s.setIoWord o v).cacheIsolated = s.cacheIsolated := rfl
@[simp] theorem setIoWord_ctr (s : State) (o : Nat) (v : Word) : (s.setIoWord o v).ctr = s.ctr := rfl
@[simp] theorem setIoWord_loadDelay (s : State) (o : Nat) (v : Word) : (s.setIoWord o v).loadDelay = s.loadDelay := rfl
@[simp] theorem setIoWord_ctx (s : State) (o : Nat) (v : Word) : (s.setIoWord o v).ctx = s.ctx := rfl
@[simp] theorem setIoWord_params (s : State) (o : Nat) (v : Word) : (s.setIoWord o v).params = s.params := rfl
@[simp] theorem setIoWord_spuCalls (s : State) (o : Nat) (v : Word) : (s.setIoWord o v).spuCalls = s.spuCalls := rfl
@[simp] theorem setIoWord_firmwareCalls (s : State) (o : Nat) (v : Word) : (s.setIoWord o v).firmwareCalls = s.firmwareCalls := rfl
@[simp] theorem setIoWord_readReg (s : State) (o : Nat) (v : Word) (q : Reg) : (s.setIoWord o v).readReg q = s.readReg q := rfl
@[simp] theorem setIoWord_readCop0 (s : State) (o : Nat) (v : Word) (q : Reg) : (s.setIoWord o v).readCop0 q = s.readCop0 q := rfl
@[simp] theorem setIoWord_resolve (s : State) (o : Nat) (v : Word) (a : Word) : (s.setIoWord o v).resolve a = s.resolve a := rfl

/-! ### raiseIStat -/

@[simp] theorem raiseIStat_gpr (s : State) (b : Word) : (s.raiseIStat b).gpr = s.gpr := rfl
@[simp] theorem raiseIStat_hi (s : State) (b : Word) : (s.raiseIStat b).hi = s.hi := rfl
@[simp] theorem raiseIStat_lo (s : State) (b : Word) : (s.raiseIStat b).lo = s.lo := rfl
@[simp] theorem raiseIStat_pc (s : State) (b : Word) : (s.raiseIStat b).pc = s.pc := rfl
@[simp] theorem raiseIStat_code (s : State) (b : Word) : (s.raiseIStat b).code = s.code := rfl
@[simp] theorem raiseIStat_cycle (s : State) (b : Word) : (s.raiseIStat b).cycle = s.cycle := rfl
@[simp] theorem raiseIStat_slot (s : State) (b : Word) : (s.raiseIStat b).slot = s.slot := rfl
@[simp] theorem raiseIStat_cop0 (s : State) (b : Word) : (s.raiseIStat b).cop0 = s.cop0 := rfl
@[simp] theorem raiseIStat_mem (s : State) (b : Word) : (s.raiseIStat b).mem = s.mem.setWord .io iStatOff (s.ioWord iStatOff ||| b) := rfl
@[simp] theorem raiseIStat_cacheIsolated (s : State) (b : Word) : (s.raiseIStat b).cacheIsolated = s.cacheIsolated := rfl
@[simp] theorem raiseIStat_ctr (s : State) (b : Word) : (s.raiseIStat b).ctr = s.ctr := rfl
@[simp] theorem raiseIStat_loadDelay (s : State) (b : Word) : (s.raiseIStat b).loadDelay = s.loadDelay := rfl
@[simp] theorem raiseIStat_ctx (s : State) (b : Word) : (s.raiseIStat b).ctx = s.ctx := rfl
@[simp] theorem raiseIStat_params (s : State) (b : Word) : (s.raiseIStat b).params = s.params := rfl
@[simp] theorem raiseIStat_spuCalls (s : State) (b : Word) : (s.raiseIStat b).spuCalls = s.spuCalls := rfl
@[simp] theorem raiseIStat_firmwareCalls (s : State) (b : Word) : (s.raiseIStat b).firmwareCalls = s.firmwareCalls := rfl
@[simp] theorem raiseIStat_readReg (s : State) (b : Word) (q : Reg) : (s.raiseIStat b).readReg q = s.readReg q := rfl
@[simp] theorem raiseIStat_readCop0 (s : State) (b : Word) (q : Reg) : (s.raiseIStat b).readCop0 q = s.readCop0 q := rfl
@[simp] theorem raiseIStat_resolve (s : State) (b : Word) (a : Word) : (s.raiseIStat b).resolve a = s.resolve a := rfl

/-- Two states with the same fields are the same: how a frame `t = { s with … }` is proved, field by field. -/
theorem State.eq_of_fields {s t : State} (h_gpr : s.gpr = t.gpr) (h_hi : s.hi = t.hi) (h_lo : s.lo = t.lo) (h_pc : s.pc = t.pc)
    (h_code : s.code = t.code) (h_cycle : s.cycle = t.cycle) (h_slot : s.slot = t.slot) (h_cop0 : s.cop0 = t.cop0)
    (h_mem : s.mem = t.mem) (h_cacheIsolated : s.cacheIsolated = t.cacheIsolated) (h_ctr : s.ctr = t.ctr)
    (h_loadDelay : s.loadDelay = t.loadDelay) (h_ctx : s.ctx = t.ctx) (h_params : s.params = t.params)
    (h_spuCalls : s.spuCalls = t.spuCalls) (h_firmwareCalls : s.firmwareCalls = t.firmwareCalls) : s = t := by
  cases s
  cases t
  subst_vars
  congr

/-! ### Reads after writes -/

@[simp] theorem readReg_zero (s : State) : s.readReg 0#5 = 0#32 := rfl

/-- Register numbers are equal exactly when their indexes are. -/
theorem reg_toNat_ne {r q : Reg} (h : r ≠ q) : r.toNat ≠ q.toNat := fun e => h (BitVec.eq_of_toNat_eq e)

/-- 10_state.md R21: what a register reads as after a write, register 0 included. -/
theorem readReg_writeReg (s : State) (r q : Reg) (v : Word) :
    (s.writeReg r v).readReg q = if q = r ∧ q ≠ 0#5 then v else s.readReg q := by
  unfold State.readReg State.writeReg gprSet
  by_cases hq : q = 0#5
  · simp [hq]
  · by_cases hqr : q = r
    · subst hqr; simp [hq]
    · by_cases hr : r = 0#5
      · simp [hr]
      · simp [hq, hr, hqr, Vector.getElem_set_ne _ _ (reg_toNat_ne (Ne.symm hqr))]

theorem readReg_writeReg_self (s : State) (r : Reg) (v : Word) (h : r ≠ 0#5) : (s.writeReg r v).readReg r = v := by
  simp [readReg_writeReg, h]

theorem readReg_writeReg_ne (s : State) (r q : Reg) (v : Word) (h : q ≠ r) :
    (s.writeReg r v).readReg q = s.readReg q := by
  simp [readReg_writeReg, h]

/-! ### landHeld -/

@[simp] theorem landHeld_hi (s : State) : s.landHeld.hi = s.hi := by unfold State.landHeld; split <;> rfl
@[simp] theorem landHeld_lo (s : State) : s.landHeld.lo = s.lo := by unfold State.landHeld; split <;> rfl
@[simp] theorem landHeld_pc (s : State) : s.landHeld.pc = s.pc := by unfold State.landHeld; split <;> rfl
@[simp] theorem landHeld_code (s : State) : s.landHeld.code = s.code := by unfold State.landHeld; split <;> rfl
@[simp] theorem landHeld_cycle (s : State) : s.landHeld.cycle = s.cycle := by unfold State.landHeld; split <;> rfl
@[simp] theorem landHeld_slot (s : State) : s.landHeld.slot = s.slot := by unfold State.landHeld; split <;> rfl
@[simp] theorem landHeld_cop0 (s : State) : s.landHeld.cop0 = s.cop0 := by unfold State.landHeld; split <;> rfl
@[simp] theorem landHeld_mem (s : State) : s.landHeld.mem = s.mem := by unfold State.landHeld; split <;> rfl
@[simp] theorem landHeld_cacheIsolated (s : State) : s.landHeld.cacheIsolated = s.cacheIsolated := by unfold State.landHeld; split <;> rfl
@[simp] theorem landHeld_ctr (s : State) : s.landHeld.ctr = s.ctr := by unfold State.landHeld; split <;> rfl
@[simp] theorem landHeld_loadDelay (s : State) : s.landHeld.loadDelay = s.loadDelay := by unfold State.landHeld; split <;> rfl
@[simp] theorem landHeld_params (s : State) : s.landHeld.params = s.params := by unfold State.landHeld; split <;> rfl
@[simp] theorem landHeld_spuCalls (s : State) : s.landHeld.spuCalls = s.spuCalls := by unfold State.landHeld; split <;> rfl
@[simp] theorem landHeld_firmwareCalls (s : State) : s.landHeld.firmwareCalls = s.firmwareCalls := by unfold State.landHeld; split <;> rfl
@[simp] theorem landHeld_ctx (s : State) : s.landHeld.ctx = { s.ctx with held := none } := by
  unfold State.landHeld
  split
  · rename_i h; exact congrArg (fun x => { s.ctx with held := x }) h
  · rfl
@[simp] theorem landHeld_readCop0 (s : State) (q : Reg) : s.landHeld.readCop0 q = s.readCop0 q := by
  unfold State.landHeld; split <;> rfl

/-- All that landing a held-back load does (70_reset_and_hazards.md R360). -/
theorem landHeld_eq (s : State) : s.landHeld = { s with gpr := s.landHeld.gpr, ctx := { s.ctx with held := none } } := by
  apply State.eq_of_fields <;> simp

@[simp] theorem landHeld_none {s : State} (h : s.ctx.held = none) : s.landHeld = s := by
  unfold State.landHeld
  rw [h]

theorem landHeld_some {s : State} {p : HeldLoad} (h : s.ctx.held = some p) :
    s.landHeld = (s.writeReg p.reg p.value).setHeld none := by
  unfold State.landHeld
  rw [h]

theorem writeCop0_landHeld_gpr (s : State) (r : Reg) (v : Word) : (s.writeCop0 r v).landHeld.gpr = s.landHeld.gpr := by
  unfold State.landHeld
  rw [writeCop0_ctx]
  split <;> rfl

/-- A write never touches entry 0 of the register file. -/
@[simp] theorem gprSet_zero (g : Vector Word 32) (r : Reg) (v : Word) : (gprSet g r v)[0] = g[0] := by
  unfold gprSet
  by_cases h : r = 0#5
  · simp [h]
  · have : r.toNat ≠ 0 := reg_toNat_ne h
    simp [h, Vector.getElem_set_ne _ _ this]

/-- 10_state.md R29: what a Coprocessor-0 register reads as after a write. -/
theorem readCop0_writeCop0 (s : State) (r q : Reg) (v : Word) :
    (s.writeCop0 r v).readCop0 q = if q = r then v else s.readCop0 q := by
  unfold State.readCop0 State.writeCop0
  by_cases h : q = r
  · subst h; simp
  · simp [h, Vector.getElem_set_ne _ _ (reg_toNat_ne (Ne.symm h))]

end Sys2Proof.Machine
end

