-- ==== Sys2Proof/Laws/Memory.lean ====
section
/-! SUPPORT. The backing stores: every write keeps the canonical form, a read after a write gives the byte written and leaves
every other byte alone, and canonical lists that read alike are equal. -/

namespace Sys2Proof.Machine

/-! ## One list of cells -/

theorem cellsRead_below {size lo k : Nat} {l : List Host.Cell} (h : cellsWf size lo l = true) (hk : k < lo) :
    cellsRead l k = unlistedByte := by
  induction l generalizing lo with
  | nil => rfl
  | cons c rest ih =>
    obtain ⟨a, b⟩ := c
    simp only [cellsWf, Bool.and_eq_true, decide_eq_true_eq] at h
    have hne : a ≠ k := by omega
    simp only [cellsRead, hne, if_false]
    exact ih h.2 (by omega)

theorem cellsRead_past {size lo k : Nat} {l : List Host.Cell} (h : cellsWf size lo l = true) (hk : size ≤ k) :
    cellsRead l k = unlistedByte := by
  induction l generalizing lo with
  | nil => rfl
  | cons c rest ih =>
    obtain ⟨a, b⟩ := c
    simp only [cellsWf, Bool.and_eq_true, decide_eq_true_eq] at h
    have hne : a ≠ k := by omega
    simp only [cellsRead, hne, if_false]
    exact ih h.2

theorem cellsWf_mono {size lo lo' : Nat} {l : List Host.Cell} (h : cellsWf size lo l = true) (hlo : lo' ≤ lo) :
    cellsWf size lo' l = true := by
  cases l with
  | nil => rfl
  | cons c rest =>
    obtain ⟨a, b⟩ := c
    simp only [cellsWf, Bool.and_eq_true, decide_eq_true_eq] at h ⊢
    exact ⟨⟨⟨by omega, h.1.1.2⟩, h.1.2⟩, h.2⟩

theorem cellsWrite_wf {size lo k : Nat} {l : List Host.Cell} {b : Byte} (h : cellsWf size lo l = true) (hlo : lo ≤ k)
    (hk : k < size) : cellsWf size lo (cellsWrite l k b) = true := by
  induction l generalizing lo with
  | nil =>
    by_cases hb : b = unlistedByte <;> simp [cellsWrite, hb, cellsWf, hlo, hk]
  | cons c rest ih =>
    obtain ⟨a, d⟩ := c
    have h' := h
    simp only [cellsWf, Bool.and_eq_true, decide_eq_true_eq] at h'
    unfold cellsWrite
    split
    · split
      · exact h
      · rename_i hka hb
        simp only [cellsWf, Bool.and_eq_true, decide_eq_true_eq, bne_iff_ne, ne_eq]
        exact ⟨⟨⟨hlo, hk⟩, hb⟩, ⟨⟨by omega, h'.1.1.2⟩, by simpa using h'.1.2⟩, h'.2⟩
    · split
      · split
        · exact cellsWf_mono h'.2 (by omega)
        · rename_i hka hb
          simp only [cellsWf, Bool.and_eq_true, decide_eq_true_eq, bne_iff_ne, ne_eq]
          subst hka
          exact ⟨⟨⟨hlo, hk⟩, hb⟩, h'.2⟩
      · simp only [cellsWf, Bool.and_eq_true, decide_eq_true_eq]
        exact ⟨h'.1, ih h'.2 (by omega)⟩

theorem cellsRead_cellsWrite {size lo k j : Nat} {l : List Host.Cell} {b : Byte} (h : cellsWf size lo l = true) :
    cellsRead (cellsWrite l k b) j = if j = k then b else cellsRead l j := by
  induction l generalizing lo with
  | nil =>
    by_cases hb : b = unlistedByte
    · simp [cellsWrite, hb, cellsRead]
    · by_cases hj : j = k
      · simp [cellsWrite, hb, cellsRead, hj]
      · simp [cellsWrite, hb, cellsRead, hj, Ne.symm hj]
  | cons c rest ih =>
    obtain ⟨a, d⟩ := c
    have h' := h
    simp only [cellsWf, Bool.and_eq_true, decide_eq_true_eq] at h'
    unfold cellsWrite
    split
    · rename_i hka
      split
      · rename_i hb
        by_cases hj : j = k
        · subst hj
          rw [if_pos rfl, hb]
          simp only [cellsRead, show a ≠ j by omega, if_false]
          exact cellsRead_below h'.2 (by omega)
        · rw [if_neg hj]
      · by_cases hj : j = k
        · subst hj; simp [cellsRead]
        · simp [cellsRead, hj, Ne.symm hj]
    · split
      · rename_i hka
        subst hka
        split
        · rename_i hb
          by_cases hj : j = k
          · subst hj
            rw [if_pos rfl, hb]
            exact cellsRead_below h'.2 (by omega)
          · simp [hj, cellsRead, Ne.symm hj]
        · by_cases hj : j = k
          · subst hj; simp [cellsRead]
          · simp [cellsRead, hj, Ne.symm hj]
      · rename_i hka hne
        by_cases hj : a = j
        · subst hj
          simp [cellsRead, show ¬ a = k by omega]
        · simp only [cellsRead, hj, if_false]
          exact ih h'.2

/-- Canonical lists that read alike are the same list. -/
theorem cells_ext {size lo : Nat} {l m : List Host.Cell} (hl : cellsWf size lo l = true) (hm : cellsWf size lo m = true)
    (h : ∀ k, cellsRead l k = cellsRead m k) : l = m := by
  induction l generalizing lo m with
  | nil =>
    cases m with
    | nil => rfl
    | cons c rest =>
      obtain ⟨a, b⟩ := c
      simp only [cellsWf, Bool.and_eq_true, bne_iff_ne] at hm
      have := h a
      simp only [cellsRead, if_true] at this
      exact absurd this.symm hm.1.2
  | cons c rest ih =>
    obtain ⟨a, b⟩ := c
    have hl' := hl
    simp only [cellsWf, Bool.and_eq_true, decide_eq_true_eq, bne_iff_ne] at hl'
    cases m with
    | nil =>
      have := h a
      simp only [cellsRead, if_true] at this
      exact absurd this hl'.1.2
    | cons d rest' =>
      obtain ⟨a', b'⟩ := d
      have hm' := hm
      simp only [cellsWf, Bool.and_eq_true, decide_eq_true_eq, bne_iff_ne] at hm'
      have haa : a = a' := by
        rcases Nat.lt_trichotomy a a' with hlt | heq | hgt
        · have := h a
          simp only [cellsRead, if_true, show a' ≠ a by omega, if_false] at this
          rw [cellsRead_below hm'.2 (by omega)] at this
          exact absurd this hl'.1.2
        · exact heq
        · have := h a'
          simp only [cellsRead, if_true, show a ≠ a' by omega, if_false] at this
          rw [cellsRead_below hl'.2 (by omega)] at this
          exact absurd this.symm hm'.1.2
      subst haa
      have hbb : b = b' := by simpa [cellsRead] using h a
      subst hbb
      have : rest = rest' := ih hl'.2 hm'.2 fun k => by
        by_cases hk : k ≤ a
        · rw [cellsRead_below hl'.2 (by omega), cellsRead_below hm'.2 (by omega)]
        · have := h k
          simpa [cellsRead, show a ≠ k by omega] using this
      rw [this]

/-! ## The four stores -/

theorem Memory.cellsWf_of_wf {m : Memory} (h : m.wf = true) (st : Store) : cellsWf st.size 0 (m.cells st) = true := by
  simp only [Memory.wf, Bool.and_eq_true] at h
  cases st <;> simp [Memory.cells, h]

theorem Memory.wf_of_cells {m : Memory} (h : ∀ st : Store, cellsWf st.size 0 (m.cells st) = true) : m.wf = true := by
  simp only [Memory.wf, Bool.and_eq_true]
  exact ⟨⟨⟨h .ram, h .par⟩, h .io⟩, h .rom⟩

@[simp] theorem Memory.cells_setCells (m : Memory) (st st' : Store) (l : List Host.Cell) :
    (m.setCells st l).cells st' = if st' = st then l else m.cells st' := by
  cases st <;> cases st' <;> rfl

theorem Memory.setByte_wf {m : Memory} (h : m.wf = true) (st : Store) (off : Nat) (b : Byte) :
    (m.setByte st off b).wf = true := by
  unfold Memory.setByte
  split
  · refine Memory.wf_of_cells fun st' => ?_
    rw [Memory.cells_setCells]
    split
    · rename_i hs hst; subst hst
      exact cellsWrite_wf (Memory.cellsWf_of_wf h _) (Nat.zero_le _) hs
    · exact Memory.cellsWf_of_wf h st'
  · exact h

/-- A read after a write of one byte. -/
theorem Memory.byte_setByte {m : Memory} (h : m.wf = true) (st st' : Store) (off off' : Nat) (b : Byte) :
    (m.setByte st off b).byte st' off' = if st' = st ∧ off' = off ∧ off < st.size then b else m.byte st' off' := by
  unfold Memory.setByte Memory.byte
  by_cases hs : off < st.size
  · simp only [hs, if_true, Memory.cells_setCells, and_true]
    by_cases hst : st' = st
    · subst hst
      simp only [if_true, true_and]
      exact cellsRead_cellsWrite (Memory.cellsWf_of_wf h _)
    · simp [hst]
  · simp [hs]

theorem Memory.setHalf_wf {m : Memory} (h : m.wf = true) (st : Store) (off : Nat) (v : Half) :
    (m.setHalf st off v).wf = true := setByte_wf (setByte_wf h _ _ _) _ _ _

theorem Memory.setWord_wf {m : Memory} (h : m.wf = true) (st : Store) (off : Nat) (v : Word) :
    (m.setWord st off v).wf = true := setByte_wf (setByte_wf (setByte_wf (setByte_wf h _ _ _) _ _ _) _ _ _) _ _ _

theorem Memory.store_wf {m : Memory} (h : m.wf = true) (st : Store) (off : Nat) (w : Width) (v : Word) :
    (m.store st off w v).wf = true := by
  cases w
  · exact setByte_wf h _ _ _
  · exact setHalf_wf h _ _ _
  · exact setWord_wf h _ _ _

theorem Memory.storeRam_wf {m : Memory} (h : m.wf = true) (base : Nat) (f : Nat → Byte) (n : Nat) :
    (m.storeRam base f n).wf = true := by
  induction n with
  | zero => exact h
  | succ n ih => exact setByte_wf ih _ _ _

/-- Two canonical memories that read alike are equal. -/
theorem Memory.ext_of_byte {m n : Memory} (hm : m.wf = true) (hn : n.wf = true)
    (h : ∀ st off, m.byte st off = n.byte st off) : m = n := by
  have hc : ∀ st : Store, m.cells st = n.cells st := fun st =>
    cells_ext (Memory.cellsWf_of_wf hm st) (Memory.cellsWf_of_wf hn st) (h st)
  obtain ⟨a, b, c, d⟩ := m
  obtain ⟨a', b', c', d'⟩ := n
  have h1 := hc .ram
  have h2 := hc .par
  have h3 := hc .io
  have h4 := hc .rom
  simp only [Memory.cells] at h1 h2 h3 h4
  rw [h1, h2, h3, h4]

theorem reset_mem_wf : State.reset.mem.wf = true := rfl

/-! ## Bytes, halfwords and words (20_memory.md R60, R76) -/

/-- Every byte of memory after a store of width `w` that stays inside its store. -/
theorem Memory.byte_store {m : Memory} (h : m.wf = true) (st st' : Store) (off off' : Nat) (w : Width) (v : Word)
    (hs : off + widthBytes w ≤ st.size) :
    (m.store st off w v).byte st' off' =
      if st' = st ∧ off ≤ off' ∧ off' < off + widthBytes w then byteOfWord v (off' - off) else m.byte st' off' := by
  cases w with
  | byte =>
    simp only [widthBytes] at hs ⊢
    simp only [Memory.store, Memory.byte_setByte h, show off < st.size by omega, and_true]
    by_cases hst : st' = st
    · by_cases ho : off' = off
      · subst ho
        have : v.setWidth 8 = byteOfWord v 0 := by
          unfold byteOfWord; ext i hi; simp
        simp [hst, this]
      · simp only [hst, true_and, ho, if_false]
        rw [if_neg (by omega)]
    · simp [hst]
  | half =>
    simp only [widthBytes] at hs ⊢
    have h1 := Memory.setByte_wf h st off ((v.setWidth 16).extractLsb' 0 8)
    simp only [Memory.store, Memory.setHalf, Memory.byte_setByte h1, Memory.byte_setByte h, show off < st.size by omega,
      show off + 1 < st.size by omega, and_true]
    by_cases hst : st' = st
    · simp only [hst, true_and]
      by_cases h0 : off' = off
      · subst h0
        have : (v.setWidth 16).extractLsb' 0 8 = byteOfWord v 0 := by
          unfold byteOfWord; ext i hi; simp; omega
        simp [this]
      · by_cases h1 : off' = off + 1
        · subst h1
          have : (v.setWidth 16).extractLsb' 8 8 = byteOfWord v 1 := by
            unfold byteOfWord; ext i hi; simp; omega
          simp [this]
        · simp only [h0, h1, if_false]
          rw [if_neg (by omega)]
    · simp [hst]
  | word =>
    simp only [widthBytes] at hs ⊢
    have h1 := Memory.setByte_wf h st off (v.extractLsb' 0 8)
    have h2 := Memory.setByte_wf h1 st (off + 1) (v.extractLsb' 8 8)
    have h3 := Memory.setByte_wf h2 st (off + 2) (v.extractLsb' 16 8)
    simp only [Memory.store, Memory.setWord, Memory.byte_setByte h1, Memory.byte_setByte h2, Memory.byte_setByte h3,
      Memory.byte_setByte h, show off < st.size by omega, show off + 1 < st.size by omega,
      show off + 2 < st.size by omega, show off + 3 < st.size by omega, and_true]
    by_cases hst : st' = st
    · simp only [hst, true_and]
      by_cases h0 : off' = off
      · subst h0; simp [byteOfWord]
      · by_cases h1 : off' = off + 1
        · subst h1; simp [byteOfWord]
        · by_cases h2 : off' = off + 2
          · subst h2; simp [byteOfWord]
          · by_cases h3 : off' = off + 3
            · subst h3; simp [byteOfWord]
            · simp only [h0, h1, h2, h3, if_false]
              rw [if_neg (by omega)]
    · simp [hst]

/-- A word is its four bytes. -/
theorem word_of_bytes (v : Word) :
    byteOfWord v 3 ++ byteOfWord v 2 ++ byteOfWord v 1 ++ byteOfWord v 0 = v := by
  unfold byteOfWord
  ext i hi
  simp only [BitVec.getElem_append, BitVec.getElem_extractLsb']
  split_ifs <;> (rw [← BitVec.getLsbD_eq_getElem]; congr 1; omega)

end Sys2Proof.Machine
end

