-- ==== Sys2Proof/Laws/Bus.lean ====
section
/-! SUPPORT. What the counters, the hardware register file and the bus can do to the state: which fields they leave alone, and
that they keep memory canonical and the counter records legal. -/

namespace Sys2Proof.Machine

/-- `t` differs from `s` at most in what a bus access can change. -/
def BusOnly (s t : State) : Prop :=
  t = { s with mem := t.mem, cacheIsolated := t.cacheIsolated, ctr := t.ctr, spuCalls := t.spuCalls }

theorem BusOnly.refl (s : State) : BusOnly s s := rfl

theorem BusOnly.trans {s t u : State} (h : BusOnly s t) (h' : BusOnly t u) : BusOnly s u := by
  unfold BusOnly at *
  rw [h', h]

/-! A bus access leaves every other field alone. -/

theorem BusOnly.gpr {s t : State} (h : BusOnly s t) : t.gpr = s.gpr := congrArg (·.gpr) (show t = _ from h)
theorem BusOnly.hi {s t : State} (h : BusOnly s t) : t.hi = s.hi := congrArg (·.hi) (show t = _ from h)
theorem BusOnly.lo {s t : State} (h : BusOnly s t) : t.lo = s.lo := congrArg (·.lo) (show t = _ from h)
theorem BusOnly.pc {s t : State} (h : BusOnly s t) : t.pc = s.pc := congrArg (·.pc) (show t = _ from h)
theorem BusOnly.code {s t : State} (h : BusOnly s t) : t.code = s.code := congrArg (·.code) (show t = _ from h)
theorem BusOnly.cycle {s t : State} (h : BusOnly s t) : t.cycle = s.cycle := congrArg (·.cycle) (show t = _ from h)
theorem BusOnly.slot {s t : State} (h : BusOnly s t) : t.slot = s.slot := congrArg (·.slot) (show t = _ from h)
theorem BusOnly.cop0 {s t : State} (h : BusOnly s t) : t.cop0 = s.cop0 := congrArg (·.cop0) (show t = _ from h)
theorem BusOnly.loadDelay {s t : State} (h : BusOnly s t) : t.loadDelay = s.loadDelay := congrArg (·.loadDelay) (show t = _ from h)
theorem BusOnly.ctx {s t : State} (h : BusOnly s t) : t.ctx = s.ctx := congrArg (·.ctx) (show t = _ from h)
theorem BusOnly.params {s t : State} (h : BusOnly s t) : t.params = s.params := congrArg (·.params) (show t = _ from h)
theorem BusOnly.firmwareCalls {s t : State} (h : BusOnly s t) : t.firmwareCalls = s.firmwareCalls := congrArg (·.firmwareCalls) (show t = _ from h)

theorem BusOnly.readReg {s t : State} (h : BusOnly s t) (r : Reg) : t.readReg r = s.readReg r := by
  unfold State.readReg; rw [h.gpr]

theorem BusOnly.readCop0 {s t : State} (h : BusOnly s t) (r : Reg) : t.readCop0 r = s.readCop0 r := by
  unfold State.readCop0; rw [h.cop0]

/-! ## Memory canonical, counters legal -/

/-- The part of the invariant that the bus can break. -/
structure BusOk (s : State) : Prop where
  memWf    : s.mem.wf = true
  counters : ∀ i : Fin 4, counterOk i s.ctr[i]

theorem BusOk.of_same {s t : State} (h : BusOk s) (hm : t.mem = s.mem) (hc : t.ctr = s.ctr) : BusOk t :=
  ⟨hm ▸ h.memWf, hc ▸ h.counters⟩

theorem BusOk.setMem {s : State} (h : BusOk s) {m : Memory} (hm : m.wf = true) : BusOk (s.setMem m) := ⟨hm, h.counters⟩

theorem BusOk.setIoWord {s : State} (h : BusOk s) (off : Nat) (v : Word) : BusOk (s.setIoWord off v) :=
  h.setMem (Memory.setWord_wf h.memWf _ _ _)

theorem BusOk.raiseIStat {s : State} (h : BusOk s) (b : Word) : BusOk (s.raiseIStat b) := h.setIoWord _ _

theorem BusOk.setCtr {s : State} (h : BusOk s) {i : Fin 4} {c : Counter} (hc : counterOk i c) : BusOk (s.setCtr i c) := by
  refine ⟨h.memWf, fun j => ?_⟩
  simp only [setCtr_ctr]
  by_cases hij : i = j
  · subst hij; simpa using hc
  · have : (i : Nat) ≠ j := fun e => hij (Fin.ext e)
    have e : (s.ctr.set i c)[j] = s.ctr[j] := Vector.getElem_set_ne _ _ this
    rw [e]
    exact h.counters j

theorem counterCount_lt (now : Word) (c : Counter) : (counterCount now c).toNat < 0x10000 := by
  unfold counterCount
  rw [BitVec.toNat_and]
  exact Nat.lt_of_le_of_lt Nat.and_le_right (by decide)

/-- `Upd` (60_exceptions.md R313) keeps a record legal. -/
theorem counterUpd_ok {i : Fin 4} {c : Counter} (now : Word) (h : counterOk i c) : counterOk i (counterUpd i now c) := by
  obtain ⟨h1, h2, h3, h4, h5⟩ := h
  refine ⟨h1, h2, h3, h4, fun hi => ?_⟩
  have := h5 hi
  subst hi
  rw [this]
  have hr : raisesEvents 3 Counter.frameAtReset.mode = true := by decide
  have ht : ticksToEvent { Counter.frameAtReset with sCycle := c.sCycle } * Counter.frameAtReset.rate = frameCycles := by
    show ((if (0x58 : Word).getLsbD 4 then ((1 : Word) - 0) &&& 0xFFFF else (0xFFFF - 0) &&& 0xFFFF) * frameCycles) = frameCycles
    decide
  simp only [counterUpd, hr, if_true, ht]
  rfl

/-- A write to the registers of a programmable counter (R317 to R319) keeps a record legal. -/
theorem counterUpd_written_ok {i : Fin 4} {c : Counter} (now : Word) (hi : i ≠ 3) (h1 : c.count.toNat < 0x10000)
    (h2 : c.target.toNat < 0x10000) (h3 : c.rate = rateFor i c.mode) (h4 : c.interrupt = counterBit i) :
    counterOk i (counterUpd i now c) :=
  ⟨h1, h2, h3, h4, fun h => absurd h hi⟩

theorem half_lt (v : Half) : (v.setWidth 32 : Word).toNat < 0x10000 := by
  have := v.isLt
  rw [BitVec.toNat_setWidth]
  omega

theorem setMem_only (s : State) (m : Memory) : BusOnly s (s.setMem m) := rfl

/-! ## Counters -/

theorem writeCount_only (s : State) (i : Fin 4) (v : Half) : BusOnly s (s.writeCount i v) := rfl
theorem writeMode_only (s : State) (i : Fin 4) (v : Word) : BusOnly s (s.writeMode i v) := rfl
theorem writeTarget_only (s : State) (i : Fin 4) (v : Half) : BusOnly s (s.writeTarget i v) := rfl
theorem fire_only (s : State) (i : Fin 4) : BusOnly s (s.fire i) := rfl
theorem fire3_only (s : State) : BusOnly s s.fire3 := rfl

theorem writeCount_ok {s : State} (h : BusOk s) {i : Fin 4} (hi : i ≠ 3) (v : Half) : BusOk (s.writeCount i v) :=
  h.setCtr (counterUpd_written_ok _ hi (half_lt v) (h.counters i).2.1 (h.counters i).2.2.1 (h.counters i).2.2.2.1)

theorem writeMode_ok {s : State} (h : BusOk s) {i : Fin 4} (hi : i ≠ 3) (v : Word) : BusOk (s.writeMode i v) :=
  h.setCtr (counterUpd_written_ok _ hi (show (0 : Word).toNat < 0x10000 by decide) (h.counters i).2.1 rfl
    (h.counters i).2.2.2.1)

theorem writeTarget_ok {s : State} (h : BusOk s) {i : Fin 4} (hi : i ≠ 3) (v : Half) : BusOk (s.writeTarget i v) :=
  h.setCtr (counterUpd_written_ok _ hi (counterCount_lt _ _) (half_lt v) (h.counters i).2.2.1 (h.counters i).2.2.2.1)

theorem fire_ok {s : State} (h : BusOk s) {i : Fin 4} (hi : i ≠ 3) : BusOk (s.fire i) := by
  refine BusOk.raiseIStat (h.setCtr ?_) _
  have hc := h.counters i
  unfold counterFired
  split
  · exact counterUpd_written_ok _ hi (show (0 : Word).toNat < 0x10000 by decide) hc.2.1 hc.2.2.1 hc.2.2.2.1
  · exact ⟨(show (0 : Word).toNat < 0x10000 by decide), hc.2.1, hc.2.2.1, hc.2.2.2.1, fun e => absurd e hi⟩

theorem fire3_ok {s : State} (h : BusOk s) : BusOk s.fire3 :=
  BusOk.raiseIStat (h.setCtr (counterUpd_ok _ (h.counters 3))) _

theorem fireIfDue_only (s : State) (i : Fin 4) : BusOnly s (s.fireIfDue i) := by
  unfold State.fireIfDue
  split
  · split <;> rfl
  · rfl

theorem fireIfDue_ok {s : State} (h : BusOk s) (i : Fin 4) : BusOk (s.fireIfDue i) := by
  unfold State.fireIfDue
  split
  · split
    · exact fire3_ok h
    · rename_i hi; exact fire_ok h hi
  · exact h

theorem catchUp_only (s : State) : BusOnly s s.catchUp :=
  (((fireIfDue_only s 3).trans (fireIfDue_only _ 0)).trans (fireIfDue_only _ 1)).trans (fireIfDue_only _ 2)

theorem catchUp_ok {s : State} (h : BusOk s) : BusOk s.catchUp :=
  fireIfDue_ok (fireIfDue_ok (fireIfDue_ok (fireIfDue_ok h 3) 0) 1) 2

/-! ## The sound DMA and the register file -/

theorem dmaTransfer_only (s : State) (madr bcr chcr : Word) : BusOnly s (s.dmaTransfer madr bcr chcr) := by
  unfold State.dmaTransfer
  dsimp only
  split <;> rfl

theorem dmaTransfer_ok {s : State} (h : BusOk s) (madr bcr chcr : Word) : BusOk (s.dmaTransfer madr bcr chcr) := by
  unfold State.dmaTransfer
  dsimp only
  split
  · exact h.of_same rfl rfl
  · exact (h.setMem (Memory.storeRam_wf h.memWf _ _ _)).of_same rfl rfl

theorem setIoWord_only (s : State) (off : Nat) (v : Word) : BusOnly s (s.setIoWord off v) := by
  unfold State.setIoWord
  exact setMem_only s _

theorem dmaComplete_only (s : State) : BusOnly s s.dmaComplete := by
  unfold State.dmaComplete State.raiseIStat
  dsimp only
  split
  · exact ((setIoWord_only _ _ _).trans (setIoWord_only _ _ _)).trans (setIoWord_only _ _ _)
  · exact setIoWord_only _ _ _

theorem dmaComplete_ok {s : State} (h : BusOk s) : BusOk s.dmaComplete := by
  unfold State.dmaComplete
  dsimp only
  split
  · exact ((h.setIoWord _ _).setIoWord _ _).raiseIStat _
  · exact h.setIoWord _ _

theorem dmaStartTest_only (s : State) : BusOnly s s.dmaStartTest := by
  unfold State.dmaStartTest
  split
  · exact (dmaTransfer_only _ _ _ _).trans (dmaComplete_only _)
  · rfl

theorem dmaStartTest_ok {s : State} (h : BusOk s) : BusOk s.dmaStartTest := by
  unfold State.dmaStartTest
  split
  · exact dmaComplete_ok (dmaTransfer_ok h _ _ _)
  · exact h

/-- No register window belongs to counter 3 (60_exceptions.md R292). -/
theorem hwReg_not_counter3 (off : Nat) : hwReg off ≠ .count 3 ∧ hwReg off ≠ .mode 3 ∧ hwReg off ≠ .target 3 := by
  unfold hwReg
  split <;> first | decide | (split <;> decide)

theorem hwWrite_only (s : State) (a : Word) (w : Width) (v : Word) : BusOnly s (s.hwWrite a w v) := by
  unfold State.hwWrite
  dsimp only
  cases w
  · rfl
  · dsimp only
    split <;> rfl
  · dsimp only
    split
    · rfl
    · exact BusOnly.trans (t := s.setMem (s.mem.store .io (pageOffset a) .word v)) rfl (dmaStartTest_only _)
    all_goals rfl

theorem hwWrite_ok {s : State} (h : BusOk s) (a : Word) (w : Width) (v : Word) : BusOk (s.hwWrite a w v) := by
  have hr := hwReg_not_counter3 (pageOffset a)
  unfold State.hwWrite
  dsimp only
  cases w
  · exact h.setMem (Memory.store_wf h.memWf _ _ _ _)
  · dsimp only
    split
    · exact h.setIoWord _ _
    · rename_i i e; exact writeCount_ok h (fun c => hr.1 (c ▸ e)) _
    · rename_i i e; exact writeMode_ok h (fun c => hr.2.1 (c ▸ e)) _
    · rename_i i e; exact writeTarget_ok h (fun c => hr.2.2 (c ▸ e)) _
    · exact h.of_same rfl rfl
    · exact h.setMem (Memory.store_wf h.memWf _ _ _ _)
  · dsimp only
    split
    · exact h.setIoWord _ _
    · exact dmaStartTest_ok (h.setMem (Memory.store_wf h.memWf _ _ _ _))
    · rename_i i e; exact writeCount_ok h (fun c => hr.1 (c ▸ e)) _
    · rename_i i e; exact writeMode_ok h (fun c => hr.2.1 (c ▸ e)) _
    · rename_i i e; exact writeTarget_ok h (fun c => hr.2.2 (c ▸ e)) _
    · exact h.setMem (Memory.store_wf h.memWf _ _ _ _)

/-! ## The bus primitives -/

/-- A read changes nothing but the record of SPU calls (20_memory.md R79). -/
theorem memRead_state (s : State) (a : Word) (w : Width) :
    (s.memRead a w).2 = s ∨ (s.memRead a w).2 = s.logSpu (.readRegister a) := by
  unfold State.memRead State.hwRead
  dsimp only
  split
  · cases w
    · exact .inl rfl
    · dsimp only
      split
      case h_4 => exact .inr rfl
      all_goals exact .inl rfl
    · dsimp only
      split <;> exact .inl rfl
  · exact .inl rfl

theorem memRead_only (s : State) (a : Word) (w : Width) : BusOnly s (s.memRead a w).2 := by
  rcases memRead_state s a w with h | h <;> rw [h] <;> rfl

theorem memRead_ok {s : State} (h : BusOk s) (a : Word) (w : Width) : BusOk (s.memRead a w).2 := by
  rcases memRead_state s a w with e | e <;> rw [e]
  · exact h
  · exact h.of_same rfl rfl

/-- Outside the hardware register file a read is the raw bytes and changes nothing. -/
theorem memRead_plain (s : State) (a : Word) (w : Width) (h : isHwFile a = false) :
    s.memRead a w = (s.rawRead a w, s) := by
  unfold State.memRead; simp [h]

theorem memWrite_only (s : State) (a : Word) (w : Width) (v : Word) : BusOnly s (s.memWrite a w v) := by
  unfold State.memWrite
  split
  · exact hwWrite_only _ _ _ _
  · split
    · rfl
    · split
      · unfold State.cacheControl
        split
        · rfl
        · split <;> rfl
      · rfl

theorem memWrite_ok {s : State} (h : BusOk s) (a : Word) (w : Width) (v : Word) : BusOk (s.memWrite a w v) := by
  unfold State.memWrite
  split
  · exact hwWrite_ok h _ _ _
  · split
    · exact h.setMem (Memory.store_wf h.memWf _ _ _ _)
    · split
      · unfold State.cacheControl
        split
        · exact h.of_same rfl rfl
        · split
          · exact h.of_same rfl rfl
          · exact h
      · exact h

/-- A write to storage outside the hardware register file stores the bytes and does nothing else. -/
theorem memWrite_plain (s : State) (a : Word) (w : Width) (v : Word) (h : isHwFile a = false) (st : Store) (off : Nat)
    (hr : s.resolve a = some (st, off)) : s.memWrite a w v = s.setMem (s.mem.store st off w v) := by
  unfold State.memWrite; simp [h, hr]

theorem rawWrite_only (s : State) (a : Word) (w : Width) (v : Word) : BusOnly s (s.rawWrite a w v) := by
  unfold State.rawWrite; split <;> rfl

theorem rawWrite_ok {s : State} (h : BusOk s) (a : Word) (w : Width) (v : Word) : BusOk (s.rawWrite a w v) := by
  unfold State.rawWrite
  split
  · exact h
  · exact h.setMem (Memory.store_wf h.memWf _ _ _ _)

end Sys2Proof.Machine
end

