-- ==== Sys2Proof/Laws/Encoding.lean ====
section
/-! SUPPORT. The fields of an encoded word and its key bits, format by format (30_encoding.md R101, R103). -/

namespace Sys2Proof

/-! ## Fields of an R-format word -/

theorem opOf_encR (op : BitVec 6) (rs rt rd sh : BitVec 5) (fn : BitVec 6) : opOf (encR op rs rt rd sh fn) = op := by
  unfold opOf encR
  ext i hi
  simp only [BitVec.getElem_extractLsb', BitVec.getLsbD_append]
  interval_cases i <;> simp

theorem rsOf_encR (op : BitVec 6) (rs rt rd sh : BitVec 5) (fn : BitVec 6) : rsOf (encR op rs rt rd sh fn) = rs := by
  unfold rsOf encR
  ext i hi
  simp only [BitVec.getElem_extractLsb', BitVec.getLsbD_append]
  interval_cases i <;> simp

theorem rtOf_encR (op : BitVec 6) (rs rt rd sh : BitVec 5) (fn : BitVec 6) : rtOf (encR op rs rt rd sh fn) = rt := by
  unfold rtOf encR
  ext i hi
  simp only [BitVec.getElem_extractLsb', BitVec.getLsbD_append]
  interval_cases i <;> simp

theorem rdOf_encR (op : BitVec 6) (rs rt rd sh : BitVec 5) (fn : BitVec 6) : rdOf (encR op rs rt rd sh fn) = rd := by
  unfold rdOf encR
  ext i hi
  simp only [BitVec.getElem_extractLsb', BitVec.getLsbD_append]
  interval_cases i <;> simp

theorem shamtOf_encR (op : BitVec 6) (rs rt rd sh : BitVec 5) (fn : BitVec 6) :
    shamtOf (encR op rs rt rd sh fn) = sh := by
  unfold shamtOf encR
  ext i hi
  simp only [BitVec.getElem_extractLsb', BitVec.getLsbD_append]
  interval_cases i <;> simp

theorem functOf_encR (op : BitVec 6) (rs rt rd sh : BitVec 5) (fn : BitVec 6) :
    functOf (encR op rs rt rd sh fn) = fn := by
  unfold functOf encR
  ext i hi
  simp only [BitVec.getElem_extractLsb', BitVec.getLsbD_append]
  interval_cases i <;> simp

/-! ## Fields of an I-format word -/

theorem opOf_encI (op : BitVec 6) (rs rt : BitVec 5) (imm : Half) : opOf (encI op rs rt imm) = op := by
  unfold opOf encI
  ext i hi
  simp only [BitVec.getElem_extractLsb', BitVec.getLsbD_append]
  interval_cases i <;> simp

theorem rsOf_encI (op : BitVec 6) (rs rt : BitVec 5) (imm : Half) : rsOf (encI op rs rt imm) = rs := by
  unfold rsOf encI
  ext i hi
  simp only [BitVec.getElem_extractLsb', BitVec.getLsbD_append]
  interval_cases i <;> simp

theorem rtOf_encI (op : BitVec 6) (rs rt : BitVec 5) (imm : Half) : rtOf (encI op rs rt imm) = rt := by
  unfold rtOf encI
  ext i hi
  simp only [BitVec.getElem_extractLsb', BitVec.getLsbD_append]
  interval_cases i <;> simp

theorem immOf_encI (op : BitVec 6) (rs rt : BitVec 5) (imm : Half) : immOf (encI op rs rt imm) = imm := by
  unfold immOf encI
  ext i hi
  simp only [BitVec.getElem_extractLsb', BitVec.getLsbD_append]
  interval_cases i <;> simp

/-! ## Fields of a J-format word and of SYSCALL and BREAK -/

theorem opOf_encJ (op : BitVec 6) (target : BitVec 26) : opOf (op ++ target) = op := by
  unfold opOf
  ext i hi
  simp only [BitVec.getElem_extractLsb', BitVec.getLsbD_append]
  interval_cases i <;> simp

theorem targetOf_encJ (op : BitVec 6) (target : BitVec 26) : targetOf (op ++ target) = target := by
  unfold targetOf
  ext i hi
  simp only [BitVec.getElem_extractLsb', BitVec.getLsbD_append]
  interval_cases i <;> simp

theorem opOf_encCode (op : BitVec 6) (code : BitVec 20) (fn : BitVec 6) : opOf (op ++ code ++ fn) = op := by
  unfold opOf
  ext i hi
  simp only [BitVec.getElem_extractLsb', BitVec.getLsbD_append]
  interval_cases i <;> simp

theorem codeOf_encCode (op : BitVec 6) (code : BitVec 20) (fn : BitVec 6) : codeOf (op ++ code ++ fn) = code := by
  unfold codeOf
  ext i hi
  simp only [BitVec.getElem_extractLsb', BitVec.getLsbD_append]
  interval_cases i <;> simp

theorem functOf_encCode (op : BitVec 6) (code : BitVec 20) (fn : BitVec 6) : functOf (op ++ code ++ fn) = fn := by
  unfold functOf
  ext i hi
  simp only [BitVec.getElem_extractLsb', BitVec.getLsbD_append]
  interval_cases i <;> simp

/-! ## Key bits -/

theorem maskPrimary_encI (op : BitVec 6) (rs rt : BitVec 5) (imm : Half) :
    encI op rs rt imm &&& 0xFC000000#32 = op ++ 0#26 := by
  unfold encI
  apply BitVec.eq_of_getLsbD_eq
  intro i hi
  simp only [BitVec.getLsbD_and, BitVec.getLsbD_append]
  interval_cases i <;> simp

theorem maskRegimm_encI (op : BitVec 6) (rs rt : BitVec 5) (imm : Half) :
    encI op rs rt imm &&& 0xFC1F0000#32 = op ++ 0#5 ++ rt ++ 0#16 := by
  unfold encI
  apply BitVec.eq_of_getLsbD_eq
  intro i hi
  simp only [BitVec.getLsbD_and, BitVec.getLsbD_append]
  interval_cases i <;> simp

theorem maskSpecial_encR (op : BitVec 6) (rs rt rd sh : BitVec 5) (fn : BitVec 6) :
    encR op rs rt rd sh fn &&& 0xFC00003F#32 = op ++ 0#20 ++ fn := by
  unfold encR
  apply BitVec.eq_of_getLsbD_eq
  intro i hi
  simp only [BitVec.getLsbD_and, BitVec.getLsbD_append]
  interval_cases i <;> simp

theorem maskCop0_encR (op : BitVec 6) (rs rt rd sh : BitVec 5) (fn : BitVec 6) :
    encR op rs rt rd sh fn &&& 0xFFE00000#32 = op ++ rs ++ 0#21 := by
  unfold encR
  apply BitVec.eq_of_getLsbD_eq
  intro i hi
  simp only [BitVec.getLsbD_and, BitVec.getLsbD_append]
  interval_cases i <;> simp

theorem maskPrimary_encJ (op : BitVec 6) (target : BitVec 26) : (op ++ target) &&& 0xFC000000#32 = op ++ 0#26 := by
  apply BitVec.eq_of_getLsbD_eq
  intro i hi
  simp only [BitVec.getLsbD_and, BitVec.getLsbD_append]
  interval_cases i <;> simp

theorem maskSpecial_encCode (op : BitVec 6) (code : BitVec 20) (fn : BitVec 6) :
    (op ++ code ++ fn) &&& 0xFC00003F#32 = op ++ 0#20 ++ fn := by
  apply BitVec.eq_of_getLsbD_eq
  intro i hi
  simp only [BitVec.getLsbD_and, BitVec.getLsbD_append]
  interval_cases i <;> simp

/-! ## Operand fields -/

/-- Every instruction is well-formed: its operand types have the widths of the encoding. -/
theorem Instr.wf_all (i : Instr) : i.wf = true := by
  have h5 : ∀ v : BitVec 5, v.toNat < 32 := fun v => v.isLt
  have h16 : ∀ v : BitVec 16, v.toNat < 65536 := fun v => v.isLt
  have h20 : ∀ v : BitVec 20, v.toNat < 1048576 := fun v => v.isLt
  have h26 : ∀ v : BitVec 26, v.toNat < 67108864 := fun v => v.isLt
  cases i <;>
    simp [Instr.wf, Instr.fields, fieldsOk, fieldsDisjoint, Field.fits, Field.inWord, Field.disjoint, Field.rs, Field.rt,
      Field.rd, Field.base, Field.shamt, Field.imm, Field.offset, Field.target, Field.code, h5, h16, h20, h26]

end Sys2Proof
end

