-- ==== Sys2Proof/Laws/Traps.lean ====
section
/-! SUPPORT. What every part of a step leaves alone, said once: the parameters, the cycle count, the fetched word, the slot state
consumed and entry 0 of the register file; and that memory stays canonical and the counters legal. Then, operation by
operation: trap entry, the firmware hand-off, evaluation, a load's end, a transfer. -/

namespace Sys2Proof.Machine

/-- `t` has what no instruction can change, and keeps memory and counters legal. -/
structure Keeps (s t : State) : Prop where
  params   : t.params = s.params
  cycle    : t.cycle = s.cycle
  code     : t.code = s.code
  consumed : t.ctx.consumed = s.ctx.consumed
  zero     : t.gpr[0] = s.gpr[0]
  bus      : BusOk s → BusOk t

theorem Keeps.refl (s : State) : Keeps s s := ⟨rfl, rfl, rfl, rfl, rfl, id⟩

theorem Keeps.trans {s t u : State} (h : Keeps s t) (k : Keeps t u) : Keeps s u :=
  ⟨k.params.trans h.params, k.cycle.trans h.cycle, k.code.trans h.code, k.consumed.trans h.consumed, k.zero.trans h.zero,
    fun b => k.bus (h.bus b)⟩

theorem Keeps.of_bus {s t : State} (h : BusOnly s t) (b : BusOk s → BusOk t) : Keeps s t :=
  ⟨h.params, h.cycle, h.code, congrArg StepCtx.consumed h.ctx, by rw [h.gpr], b⟩

theorem keeps_writeReg (s : State) (r : Reg) (v : Word) : Keeps s (s.writeReg r v) :=
  ⟨rfl, rfl, rfl, rfl, by simp, fun b => b.of_same rfl rfl⟩

theorem keeps_setHi (s : State) (v : Word) : Keeps s (s.setHi v) := ⟨rfl, rfl, rfl, rfl, rfl, fun b => b.of_same rfl rfl⟩
theorem keeps_setLo (s : State) (v : Word) : Keeps s (s.setLo v) := ⟨rfl, rfl, rfl, rfl, rfl, fun b => b.of_same rfl rfl⟩
theorem keeps_setPc (s : State) (v : Word) : Keeps s (s.setPc v) := ⟨rfl, rfl, rfl, rfl, rfl, fun b => b.of_same rfl rfl⟩
theorem keeps_setSlot (s : State) (d : Slot) : Keeps s (s.setSlot d) :=
  ⟨rfl, rfl, rfl, rfl, rfl, fun b => b.of_same rfl rfl⟩
theorem keeps_writeCop0 (s : State) (r : Reg) (v : Word) : Keeps s (s.writeCop0 r v) :=
  ⟨rfl, rfl, rfl, rfl, rfl, fun b => b.of_same rfl rfl⟩
theorem keeps_setLoadDelay (s : State) (d : Option LoadDelay) : Keeps s (s.setLoadDelay d) :=
  ⟨rfl, rfl, rfl, rfl, rfl, fun b => b.of_same rfl rfl⟩

theorem keeps_setHeld (s : State) (h : Option HeldLoad) : Keeps s (s.setHeld h) :=
  ⟨rfl, rfl, rfl, rfl, rfl, fun b => b.of_same rfl rfl⟩

theorem keeps_landHeld (s : State) : Keeps s s.landHeld := by
  unfold State.landHeld
  split
  · exact .refl s
  · exact (keeps_writeReg _ _ _).trans (keeps_setHeld _ _)

theorem keeps_setTrapped (s : State) : Keeps s s.setTrapped := ⟨rfl, rfl, rfl, rfl, rfl, fun b => b.of_same rfl rfl⟩

theorem keeps_memRead (s : State) (a : Word) (w : Width) : Keeps s (s.memRead a w).2 :=
  .of_bus (memRead_only s a w) fun b => memRead_ok b a w

theorem keeps_memWrite (s : State) (a : Word) (w : Width) (v : Word) : Keeps s (s.memWrite a w v) :=
  .of_bus (memWrite_only s a w v) fun b => memWrite_ok b a w v

theorem keeps_rawWrite (s : State) (a : Word) (w : Width) (v : Word) : Keeps s (s.rawWrite a w v) :=
  .of_bus (rawWrite_only s a w v) fun b => rawWrite_ok b a w v

theorem keeps_catchUp (s : State) : Keeps s s.catchUp := .of_bus (catchUp_only s) catchUp_ok

/-! ## The firmware agent -/

theorem firmwareAccess_only (s : State) (a : FirmwareAccess) : BusOnly s (s.firmwareAccess a) := by
  cases a
  · exact memRead_only _ _ _
  · exact memRead_only _ _ _
  · exact memRead_only _ _ _
  · exact memWrite_only _ _ _ _
  · exact memWrite_only _ _ _ _
  · exact memWrite_only _ _ _ _

theorem firmwareAccess_ok {s : State} (h : BusOk s) (a : FirmwareAccess) : BusOk (s.firmwareAccess a) := by
  cases a
  · exact memRead_ok h _ _
  · exact memRead_ok h _ _
  · exact memRead_ok h _ _
  · exact memWrite_ok h _ _ _
  · exact memWrite_ok h _ _ _
  · exact memWrite_ok h _ _ _

theorem firmwareAccesses_only (s : State) (l : List FirmwareAccess) : BusOnly s (l.foldl State.firmwareAccess s) := by
  induction l generalizing s with
  | nil => rfl
  | cons a l ih => exact (firmwareAccess_only s a).trans (ih _)

theorem firmwareAccesses_ok {s : State} (h : BusOk s) (l : List FirmwareAccess) :
    BusOk (l.foldl State.firmwareAccess s) := by
  induction l generalizing s with
  | nil => exact h
  | cons a l ih => exact ih (firmwareAccess_ok h a)

/-- The fields the general handler cannot change (R271). -/
theorem firmwareHandler_only (s : State) (c : Cause) :
    (s.firmwareHandler c).slot = .none ∧ (s.firmwareHandler c).loadDelay = s.loadDelay ∧
      (s.firmwareHandler c).ctx = s.ctx ∧ Keeps s (s.firmwareHandler c) := by
  unfold State.firmwareHandler
  dsimp only
  generalize hu : ({ s with
      gpr := (Config.firmware s c).gpr.set 0 s.gpr[0], hi := (Config.firmware s c).hi, lo := (Config.firmware s c).lo,
      pc := (Config.firmware s c).pc, cop0 := (Config.firmware s c).cop0, slot := .none,
      firmwareCalls := s.firmwareCalls + 1 } : State) = u
  have h := firmwareAccesses_only u (Config.firmware s c).accesses
  have k : Keeps s u := by
    subst hu
    exact ⟨rfl, rfl, rfl, rfl, by simp, fun b => b.of_same rfl rfl⟩
  refine ⟨?_, ?_, ?_, k.trans (.of_bus h fun b => firmwareAccesses_ok b _)⟩
  · rw [h.slot, ← hu]
  · rw [h.loadDelay, ← hu]
  · rw [h.ctx, ← hu]

theorem syscallShim_keeps (s : State) (a0 : Word) : Keeps s (s.syscallShim a0) := by
  unfold State.syscallShim
  exact (keeps_setPc _ _).trans (keeps_writeCop0 _ _ _)

/-- The hand-off changes neither the slot state a trap entry leaves nor the load record nor the step's own variables. -/
theorem firmwareHandOff_only (s : State) (c : Cause) (a0 : Word) (h : s.slot = .none) :
    (s.firmwareHandOff c a0).slot = .none ∧ (s.firmwareHandOff c a0).loadDelay = s.loadDelay ∧
      (s.firmwareHandOff c a0).ctx = s.ctx ∧ Keeps s (s.firmwareHandOff c a0) := by
  unfold State.firmwareHandOff
  split
  · exact ⟨h, rfl, rfl, .refl s⟩
  · split
    · exact ⟨h, rfl, rfl, syscallShim_keeps s a0⟩
    · exact firmwareHandler_only s c

/-- With no firmware agent the hand-off does nothing (R269). -/
theorem firmwareHandOff_absent (s : State) (c : Cause) (a0 : Word) (h : s.params.firmware = .absent) :
    s.firmwareHandOff c a0 = s := by
  unfold State.firmwareHandOff
  rw [h]

/-! ## Trap entry -/

theorem trapRegisters_keeps (s : State) (c : Cause) (bd : Bool) (resume : Word) : Keeps s (s.trapRegisters c bd resume) := by
  unfold State.trapRegisters
  exact (((((((keeps_landHeld s).trans (keeps_writeCop0 _ _ _)).trans (keeps_writeCop0 _ _ _)).trans (keeps_writeCop0 _ _ _)).trans
    (keeps_setPc _ _)).trans (keeps_setSlot _ _)).trans (keeps_setLoadDelay _ _)).trans (keeps_setTrapped _)

theorem trapRegisters_ctx (s : State) (c : Cause) (bd : Bool) (resume : Word) :
    (s.trapRegisters c bd resume).ctx = ⟨s.ctx.consumed, true, none⟩ := by
  unfold State.trapRegisters
  simp

theorem trapRegisters_gpr (s : State) (c : Cause) (bd : Bool) (resume : Word) :
    (s.trapRegisters c bd resume).gpr = s.landHeld.gpr := by
  unfold State.trapRegisters
  simp

/-- With no firmware agent a trap entry is its register writes (R262, R269). -/
theorem raise_absent (s : State) (c : Cause) (bd : Bool) (resume : Word) (h : s.params.firmware = .absent) :
    s.raise c bd resume = s.trapRegisters c bd resume :=
  firmwareHandOff_absent _ _ _ ((trapRegisters_keeps s c bd resume).params ▸ h)

theorem raise_only (s : State) (c : Cause) (bd : Bool) (resume : Word) :
    (s.raise c bd resume).slot = .none ∧ (s.raise c bd resume).loadDelay = none ∧
      (s.raise c bd resume).ctx = ⟨s.ctx.consumed, true, none⟩ ∧ Keeps s (s.raise c bd resume) := by
  have h := firmwareHandOff_only (s.trapRegisters c bd resume) c (s.readReg 4) rfl
  exact ⟨h.1, h.2.1, h.2.2.1.trans (trapRegisters_ctx s c bd resume), (trapRegisters_keeps s c bd resume).trans h.2.2.2⟩

theorem raiseHere_keeps (s : State) (c : Cause) : Keeps s (s.raiseHere c) := (raise_only s c _ _).2.2.2

theorem raiseAddress_keeps (s : State) (c : Cause) (a : Word) : Keeps s (s.raiseAddress c a) :=
  (keeps_writeCop0 _ _ _).trans (raiseHere_keeps _ _)

/-- What the four Coprocessor-0 registers of a trap hold after its register writes, and where they send the machine (R262). -/
theorem trapRegisters_spec (s : State) (c : Cause) (bd : Bool) (resume : Word) :
    (s.trapRegisters c bd resume).readCop0 causeReg = causeWord c bd ∧
      (s.trapRegisters c bd resume).readCop0 epcReg = (if bd then resume - 4 else resume) ∧
      (s.trapRegisters c bd resume).readCop0 statusReg = statusPush (s.readCop0 statusReg) ∧
      (s.trapRegisters c bd resume).pc = trapVector (s.readCop0 statusReg) ∧
      (s.trapRegisters c bd resume).slot = .none ∧
      ∀ r, r ≠ causeReg → r ≠ epcReg → r ≠ statusReg → (s.trapRegisters c bd resume).readCop0 r = s.readCop0 r := by
  have hr : ∀ r, (s.trapRegisters c bd resume).readCop0 r =
      if r = statusReg then statusPush (s.readCop0 statusReg)
      else if r = epcReg then (if bd then resume - 4 else resume)
      else if r = causeReg then causeWord c bd else s.readCop0 r := fun r => by
    show ((((s.landHeld.writeCop0 causeReg (causeWord c bd)).writeCop0 epcReg (if bd then resume - 4 else resume)).writeCop0 statusReg
      (statusPush (s.readCop0 statusReg))).readCop0 r) = _
    rw [readCop0_writeCop0, readCop0_writeCop0, readCop0_writeCop0, landHeld_readCop0]
  refine ⟨?_, ?_, ?_, rfl, rfl, fun r h1 h2 h3 => ?_⟩
  · rw [hr]; rfl
  · rw [hr]; rfl
  · rw [hr]; rfl
  · rw [hr, if_neg h3, if_neg h2, if_neg h1]

/-- What the register writes of trap entry leave alone (R262: "Trap entry writes nothing else"), but for the register of a load
that was held back (R253). -/
theorem trapRegisters_frame (s : State) (c : Cause) (bd : Bool) (resume : Word) :
    s.trapRegisters c bd resume =
      { s with
        gpr := s.landHeld.gpr
        cop0 := (s.trapRegisters c bd resume).cop0
        pc := (s.trapRegisters c bd resume).pc
        slot := .none
        loadDelay := none
        ctx := ⟨s.ctx.consumed, true, none⟩ } := by
  unfold State.trapRegisters
  apply State.eq_of_fields <;> simp

/-! ## Evaluation -/

/-- Evaluation either only catches the counters up, or takes the interrupt. -/
theorem evaluate_cases (s : State) :
    (s.catchUp.interruptCondition = false ∧ s.evaluate = s.catchUp) ∨
      (s.catchUp.interruptCondition = true ∧ s.evaluate = s.catchUp.raise .interrupt false s.catchUp.pc) := by
  unfold State.evaluate
  dsimp only
  split
  · rename_i h; exact .inr ⟨h, rfl⟩
  · rename_i h; exact .inl ⟨by simpa using h, rfl⟩

theorem evaluate_keeps (s : State) : Keeps s s.evaluate := by
  rcases evaluate_cases s with ⟨-, h⟩ | ⟨-, h⟩ <;> rw [h]
  · exact keeps_catchUp s
  · exact (keeps_catchUp s).trans (raise_only _ _ _ _).2.2.2

/-- Evaluation leaves an empty slot state empty, and the load record unless it takes the interrupt. -/
theorem evaluate_slot (s : State) (h : s.slot = .none) : s.evaluate.slot = .none := by
  rcases evaluate_cases s with ⟨-, e⟩ | ⟨-, e⟩ <;> rw [e]
  · exact (catchUp_only s).slot.trans h
  · exact (raise_only _ _ _ _).1

theorem evaluate_loadDelay (s : State) : s.evaluate.loadDelay = s.loadDelay ∨ s.evaluate.loadDelay = none := by
  rcases evaluate_cases s with ⟨-, e⟩ | ⟨-, e⟩ <;> rw [e]
  · exact .inl (catchUp_only s).loadDelay
  · exact .inr (raise_only _ _ _ _).2.1

/-! ## Loads and transfers -/

theorem finishLoad_keeps (s : State) (rt : Reg) (v : Word) (merging : Bool) : Keeps s (s.finishLoad rt v merging) :=
  (keeps_writeReg _ _ _).trans (keeps_setLoadDelay _ _)

theorem finishLoad_loadDelay (s : State) (rt : Reg) (v : Word) (merging : Bool) :
    (s.finishLoad rt v merging).loadDelay =
      if rt = 0#5 then none else some ⟨rt, s.readReg rt, merging, slotTaken s.ctx.consumed⟩ := rfl

/-- A transfer goes ahead exactly outside a delay slot, and then writes the slot state alone (R181, R196). -/
theorem transfer_cases (s : State) (d : Slot) :
    (s.inDelaySlot = true ∧ s.transfer d = .refused .transferInDelaySlot) ∨
      (s.inDelaySlot = false ∧ s.transfer d = .next (s.setSlot d)) := by
  unfold State.transfer
  cases s.inDelaySlot <;> simp

end Sys2Proof.Machine
end

