-- ==== Sys2Proof/Laws/Step.lean ====
section
/-! SUPPORT. What an instruction that answers a next state can have done, one lemma per shared operation, and for `exec` as a
whole; and what the parts of a step around it do. -/

namespace Sys2Proof.Machine

/-- What every instruction keeps, over and above `Keeps`: a recorded load never has register 0 as destination; only a transfer
outside a delay slot leaves a slot state, with pc untouched; and the step's own variables change only by an exception, which
lands a held-back load. -/
structure ExecOk (s t : State) : Prop where
  keeps     : Keeps s t
  loadDelay : (∀ d, s.loadDelay = some d → d.reg ≠ 0#5) → ∀ d, t.loadDelay = some d → d.reg ≠ 0#5
  slot      : s.slot = .none → t.slot ≠ .none → s.inDelaySlot = false ∧ t.pc = s.pc
  ctx       : t.ctx = s.ctx ∨
    (t.ctx = ⟨s.ctx.consumed, true, none⟩ ∧ (s.params.firmware = .absent → t.gpr = s.landHeld.gpr))

/-- An effect that leaves the load record and the slot state as they are. -/
theorem ExecOk.of_same {s t : State} (k : Keeps s t) (hl : t.loadDelay = s.loadDelay) (hs : t.slot = s.slot)
    (hc : t.ctx = s.ctx) : ExecOk s t :=
  ⟨k, fun h d e => h d (hl ▸ e), fun h n => absurd (hs.trans h) n, .inl hc⟩

theorem ExecOk.refl (s : State) : ExecOk s s := .of_same (.refl s) rfl rfl rfl

theorem ExecOk.of_bus {s t : State} (h : BusOnly s t) (k : Keeps s t) : ExecOk s t := .of_same k h.loadDelay h.slot h.ctx

theorem ExecOk.raise (s : State) (c : Cause) (bd : Bool) (resume : Word) : ExecOk s (s.raise c bd resume) := by
  obtain ⟨hs, hl, hc, k⟩ := raise_only s c bd resume
  exact ⟨k, (fun _ _ e => absurd (hl.symm.trans e) (by simp)), fun _ n => absurd hs n,
    .inr ⟨hc, fun h => by rw [raise_absent _ _ _ _ h, trapRegisters_gpr]⟩⟩

/-- Every next state of this outcome is `ExecOk`. -/
def Fine (s : State) (o : Host.Outcome State Fault Refusal) : Prop := ∀ t, o = .next t → ExecOk s t

theorem Fine.next {s t : State} (h : ExecOk s t) : Fine s (.next t) := fun u e => by cases e; exact h

theorem Fine.refused {s : State} (r : Refusal) : Fine s (.refused r) := fun _ e => by cases e

theorem fine_result (s : State) (rd : Reg) (v : Word) : Fine s (s.result rd v) :=
  .next (.of_same (keeps_writeReg s rd v) rfl rfl rfl)

theorem fine_raiseHere (s : State) (c : Cause) : Fine s (.next (s.raiseHere c)) :=
  .next (.raise s c _ _)

theorem fine_raiseAddress (s : State) (c : Cause) (a : Word) : Fine s (.next (s.raiseAddress c a)) := by
  have h := ExecOk.raise (s.writeCop0 badVAddrReg a) c (s.writeCop0 badVAddrReg a).bdFlag (s.writeCop0 badVAddrReg a).ia
  refine .next ⟨raiseAddress_keeps s c a, h.loadDelay, h.slot, ?_⟩
  rw [← writeCop0_landHeld_gpr s badVAddrReg a]
  exact h.ctx

theorem fine_resultOrOverflow (s : State) (rd : Reg) (v : Word) (ovf : Bool) : Fine s (s.resultOrOverflow rd v ovf) := by
  unfold State.resultOrOverflow
  split
  · exact fine_raiseHere s _
  · exact fine_result s rd v

theorem fine_setHiLo (s : State) (h l : Word) : Fine s (.next (s.setHiLo h l)) :=
  .next (.of_same ((keeps_setHi s h).trans (keeps_setLo _ l)) rfl rfl rfl)

theorem fine_transferFrom {s u : State} (k : Keeps s u) (hl : u.loadDelay = s.loadDelay)
    (hp : u.pc = s.pc) (hc : u.ctx = s.ctx) (d : Slot) : Fine s (u.transfer d) := by
  have hi : u.inDelaySlot = s.inDelaySlot := by unfold State.inDelaySlot; rw [hc]
  rcases transfer_cases u d with ⟨-, e⟩ | ⟨hd, e⟩ <;> rw [e]
  · exact .refused _
  · exact .next ⟨k.trans (keeps_setSlot _ _), fun h x y => h x (hl ▸ y), fun _ _ => ⟨hi ▸ hd, hp⟩, .inl hc⟩

theorem fine_transfer (s : State) (d : Slot) : Fine s (s.transfer d) := fine_transferFrom (.refl s) rfl rfl rfl d

theorem fine_transferLink (s : State) (r : Reg) (d : Slot) : Fine s (s.transferLink r d) :=
  fine_transferFrom (keeps_writeReg _ _ _) rfl rfl rfl d

theorem fine_branchLinkIf (s : State) (c : Bool) (imm : Half) : Fine s (s.branchLinkIf c imm) := by
  unfold State.branchLinkIf State.branchIf
  split
  · exact fine_transferLink _ _ _
  · exact fine_transfer _ _

theorem execOk_finishLoad (s : State) (rt : Reg) (v : Word) (merging : Bool) : ExecOk s (s.finishLoad rt v merging) := by
  refine ⟨finishLoad_keeps s rt v merging, fun _ d e => ?_, fun h n => absurd h n, .inl rfl⟩
  rw [finishLoad_loadDelay] at e
  split at e
  · cases e
  · rename_i h; cases e; exact h

theorem execOk_busLoad {s u : State} (h : BusOnly s u) (k : Keeps s u) (rt : Reg) (v : Word) (merging : Bool) :
    ExecOk s (u.finishLoad rt v merging) :=
  ⟨k.trans (finishLoad_keeps u rt v merging),
    fun a => (execOk_finishLoad u rt v merging).loadDelay fun x y => a x (h.loadDelay ▸ y),
    fun a n => absurd (h.slot.trans a) n, .inl h.ctx⟩

theorem fine_loadInto (s : State) (base rt : Reg) (offset : Half) (w : Width) (ext : Word → Word) :
    Fine s (s.loadInto base rt offset w ext) := by
  unfold State.loadInto
  dsimp only
  split
  · exact fine_raiseAddress _ _ _
  · exact .next (.refl s)
  · exact .next (execOk_busLoad (memRead_only _ _ _) (keeps_memRead _ _ _) _ _ _)
  · exact .next (execOk_finishLoad _ _ _ _)
  · exact .refused _

theorem fine_loadMerge (s : State) (base rt : Reg) (offset : Half) (merge : Nat → Word → Word → Word) :
    Fine s (s.loadMerge base rt offset merge) := by
  unfold State.loadMerge
  split
  · exact .next (.refl s)
  · exact .next (execOk_busLoad (memRead_only _ _ _) (keeps_memRead _ _ _) _ _ _)

theorem fine_storeFrom (s : State) (base rt : Reg) (offset : Half) (w : Width) : Fine s (s.storeFrom base rt offset w) := by
  unfold State.storeFrom
  dsimp only
  split
  · exact .next (.of_bus (memWrite_only _ _ _ _) (keeps_memWrite _ _ _ _))
  · exact fine_raiseAddress _ _ _
  · exact .next (.of_bus (rawWrite_only _ _ _ _) (keeps_rawWrite _ _ _ _))
  · exact .refused _

theorem fine_storeMerge (s : State) (base rt : Reg) (offset : Half) (merge : Nat → Word → Word → Word) :
    Fine s (s.storeMerge base rt offset merge) := by
  unfold State.storeMerge
  exact .next (.of_bus ((memRead_only _ _ _).trans (memWrite_only _ _ _ _))
    ((keeps_memRead _ _ _).trans (keeps_memWrite _ _ _ _)))

theorem fine_moveFromCop0 (s : State) (rt rd : Reg) : Fine s (s.moveFromCop0 rt rd) := by
  unfold State.moveFromCop0
  split
  · exact .next (.refl s)
  · exact .next (execOk_finishLoad _ _ _ _)

theorem fine_moveToCop0 (s : State) (rt rd : Reg) : Fine s (s.moveToCop0 rt rd) :=
  .next (.of_same (keeps_writeCop0 _ _ _) rfl rfl rfl)

theorem fine_div (s : State) (c : Prop) [Decidable c] (h l : Word) :
    Fine s (if c then .next s else .next (s.setHiLo h l)) := by
  split
  · exact .next (.refl s)
  · exact fine_setHiLo _ _ _

/-- Every instruction. -/
theorem exec_fine (i : Instr) (s : State) : Fine s (exec i s) := by
  cases i with
  | addi => exact fine_resultOrOverflow _ _ _ _
  | addiu => exact fine_result _ _ _
  | slti => exact fine_result _ _ _
  | sltiu => exact fine_result _ _ _
  | andi => exact fine_result _ _ _
  | ori => exact fine_result _ _ _
  | xori => exact fine_result _ _ _
  | lui => exact fine_result _ _ _
  | add => exact fine_resultOrOverflow _ _ _ _
  | addu => exact fine_result _ _ _
  | sub => exact fine_resultOrOverflow _ _ _ _
  | subu => exact fine_result _ _ _
  | and => exact fine_result _ _ _
  | or => exact fine_result _ _ _
  | xor => exact fine_result _ _ _
  | nor => exact fine_result _ _ _
  | slt => exact fine_result _ _ _
  | sltu => exact fine_result _ _ _
  | sll => exact fine_result _ _ _
  | srl => exact fine_result _ _ _
  | sra => exact fine_result _ _ _
  | sllv => exact fine_result _ _ _
  | srlv => exact fine_result _ _ _
  | srav => exact fine_result _ _ _
  | mult => exact fine_setHiLo _ _ _
  | multu => exact fine_setHiLo _ _ _
  | div => exact fine_div _ _ _ _
  | divu => exact fine_div _ _ _ _
  | mfhi => exact fine_result _ _ _
  | mflo => exact fine_result _ _ _
  | mthi => exact .next (.of_same (keeps_setHi _ _) rfl rfl rfl)
  | mtlo => exact .next (.of_same (keeps_setLo _ _) rfl rfl rfl)
  | j => exact fine_transfer _ _
  | jal => exact fine_transferLink _ _ _
  | jr => exact fine_transfer _ _
  | jalr => exact fine_transferLink _ _ _
  | beq => exact fine_transfer _ _
  | bne => exact fine_transfer _ _
  | blez => exact fine_transfer _ _
  | bgtz => exact fine_transfer _ _
  | bltz => exact fine_transfer _ _
  | bgez => exact fine_transfer _ _
  | bltzal => exact fine_branchLinkIf _ _ _
  | bgezal => exact fine_branchLinkIf _ _ _
  | lb base rt offset => exact fine_loadInto s base rt offset .byte (fun v => sext8 (v.setWidth 8))
  | lbu base rt offset => exact fine_loadInto s base rt offset .byte (fun v => (v.setWidth 8).setWidth 32)
  | lh base rt offset => exact fine_loadInto s base rt offset .half (fun v => sext16 (v.setWidth 16))
  | lhu base rt offset => exact fine_loadInto s base rt offset .half (fun v => zext16 (v.setWidth 16))
  | lw base rt offset => exact fine_loadInto s base rt offset .word id
  | lwl => exact fine_loadMerge _ _ _ _ _
  | lwr => exact fine_loadMerge _ _ _ _ _
  | sb => exact fine_storeFrom _ _ _ _ _
  | sh => exact fine_storeFrom _ _ _ _ _
  | sw => exact fine_storeFrom _ _ _ _ _
  | swl => exact fine_storeMerge _ _ _ _ _
  | swr => exact fine_storeMerge _ _ _ _ _
  | syscall => exact fine_raiseHere _ _
  | brk =>
    show Fine s (if s.params.breakTraps then .next (s.raiseHere .breakpoint) else .next s)
    split
    · exact fine_raiseHere _ _
    · exact .next (.refl s)
  | mfc0 => exact fine_moveFromCop0 _ _ _
  | cfc0 => exact fine_moveFromCop0 _ _ _
  | mtc0 => exact fine_moveToCop0 _ _ _
  | ctc0 => exact fine_moveToCop0 _ _ _
  | rfe => exact .next (.of_same (keeps_writeCop0 _ _ _) rfl rfl rfl)

/-! ## The parts of a step around `exec` -/

/-- What the fetch stage finds, case by case. -/
theorem fetchStage_cases (s : State) :
    (wordAligned s.pc = true ∧ ∃ i, decode (s.fetch s.pc) = .instr i ∧ s.fetchStage = .run i s.executing) ∨
      (wordAligned s.pc = true ∧ ∃ why, decode (s.fetch s.pc) = .noOp why ∧ s.fetchStage = .noOp why s.executing) ∨
      (wordAligned s.pc = false ∧ s.params.misaligned = .addressError ∧
        s.fetchStage = .trap ((s.startStep s.code).raiseAddress .adEL s.pc)) ∨
      (wordAligned s.pc = false ∧ s.params.misaligned ≠ .addressError ∧ s.fetchStage = .stop .unalignedFetch) := by
  unfold State.fetchStage State.executing
  cases h : wordAligned s.pc
  · simp only [Bool.false_eq_true, if_false]
    cases hm : s.params.misaligned <;> simp
  · simp only [if_true]
    cases hd : decode (s.fetch s.pc) <;> simp

/-- `onNext` answers a next state exactly on one. -/
theorem onNext_next {f : State → State} {o : Host.Outcome State Fault Refusal} {t : State} (h : onNext f o = .next t) :
    ∃ u, o = .next u ∧ f u = t := by
  cases o with
  | next u => exact ⟨u, rfl, by simpa [onNext] using h⟩
  | fault => simp [onNext] at h
  | refused => simp [onNext] at h

theorem completeTransfer_keeps (s : State) : Keeps s s.completeTransfer := by
  unfold State.completeTransfer
  split
  · exact .refl s
  · split
    · exact keeps_setPc _ _
    · exact .refl s

theorem completeTransfer_slot (s : State) : s.completeTransfer.slot = s.slot := by
  unfold State.completeTransfer
  split
  · rfl
  · split <;> rfl

theorem completeTransfer_loadDelay (s : State) : s.completeTransfer.loadDelay = s.loadDelay := by
  unfold State.completeTransfer
  split
  · rfl
  · split <;> rfl

/-- Nothing is evaluated between a control transfer and its slot (R258). -/
theorem evaluationPoint_slot {e : Bool} {c d : Slot} (h : evaluationPoint e c d = true) : d = .none := by
  cases d <;> simp_all [evaluationPoint]

/-- What the end of a step does to the fields that matter to the invariant. -/
theorem endStep_spec (s : State) :
    (s.endStep.params = s.params ∧ s.endStep.cycle = s.cycle ∧ s.endStep.code = s.code) ∧ s.endStep.gpr[0] = s.gpr[0] ∧
      (BusOk s → BusOk s.endStep) ∧ s.endStep.ctx = StepCtx.idle ∧ s.endStep.slot = s.slot ∧
      (s.endStep.loadDelay = s.loadDelay ∨ s.endStep.loadDelay = none) ∧
      (s.slot ≠ .none → s.endStep.pc = s.completeTransfer.pc) := by
  have hc := completeTransfer_keeps s
  unfold State.endStep
  dsimp only
  split
  · rename_i he
    have hs := evaluationPoint_slot he
    have k := hc.trans (evaluate_keeps s.completeTransfer)
    refine ⟨⟨k.params, k.cycle, k.code⟩, k.zero, fun b => (k.bus b).of_same rfl rfl, rfl, ?_, ?_, fun n => ?_⟩
    · show s.completeTransfer.evaluate.slot = _
      rw [evaluate_slot _ hs, ← completeTransfer_slot, hs]
    · rw [← completeTransfer_loadDelay s]
      exact evaluate_loadDelay _
    · exact absurd ((completeTransfer_slot s).symm.trans hs) n
  · exact ⟨⟨hc.params, hc.cycle, hc.code⟩, hc.zero, fun b => (hc.bus b).of_same rfl rfl, rfl, completeTransfer_slot s,
      .inl (completeTransfer_loadDelay s), fun _ => rfl⟩

/-- All that settling a held-back load does. -/
theorem settleLoad_eq (u : State) (i : Instr) :
    u.settleLoad i = { u with gpr := (u.settleLoad i).gpr, ctx := { u.ctx with held := none } } := by
  unfold State.settleLoad
  split
  · rename_i h
    apply State.eq_of_fields <;> first | rfl | exact congrArg (fun x => { u.ctx with held := x }) h
  · split
    · rfl
    · exact landHeld_eq u

/-- Where the load has landed already there is nothing to settle. -/
theorem settleLoad_none {u : State} (h : u.ctx.held = none) (i : Instr) : u.settleLoad i = u := by
  unfold State.settleLoad
  rw [h]

theorem settleLoad_keeps (u : State) (i : Instr) : Keeps u (u.settleLoad i) := by
  unfold State.settleLoad
  split
  · exact .refl u
  · split
    · exact keeps_setHeld _ _
    · exact keeps_landHeld u

theorem holdBack_keeps (s : State) (d : LoadDelay) : Keeps s (s.holdBack d) :=
  (keeps_writeReg _ _ _).trans (keeps_setHeld _ _)

/-- A step that goes on, case by case: the misaligned fetch that traps, a no-op encoding, an instruction, an instruction with
the load before it delayed. -/
theorem step_cases {s t : State} (h : step s = .next t) :
    (wordAligned s.pc = false ∧ s.params.misaligned = .addressError ∧
        t = ((s.startStep s.code).raiseAddress .adEL s.pc).endStep) ∨
      (wordAligned s.pc = true ∧ (∃ why, decode (s.fetch s.pc) = .noOp why) ∧ t = s.executing.endStep) ∨
      (wordAligned s.pc = true ∧ ∃ i, decode (s.fetch s.pc) = .instr i ∧ s.loadStage i = .plain ∧
        ∃ u, exec i s.executing = .next u ∧ t = u.endStep) ∨
      (wordAligned s.pc = true ∧ ∃ i d, decode (s.fetch s.pc) = .instr i ∧ s.loadStage i = .delayed d ∧
        ∃ u, exec i (s.executing.holdBack d) = .next u ∧ t = (u.settleLoad i).endStep) := by
  unfold step State.stepWith at h
  rcases fetchStage_cases s with ⟨ha, i, hd, e⟩ | ⟨ha, why, hd, e⟩ | ⟨ha, hm, e⟩ | ⟨ha, hm, e⟩ <;> rw [e] at h <;>
    dsimp only at h
  · cases hl : s.loadStage i with
    | stop r => rw [hl] at h; cases h
    | plain =>
      rw [hl] at h
      obtain ⟨u, hu, ht⟩ := onNext_next h
      exact .inr (.inr (.inl ⟨ha, i, hd, hl, u, hu, ht.symm⟩))
    | delayed d =>
      rw [hl] at h
      obtain ⟨u, hu, ht⟩ := onNext_next h
      exact .inr (.inr (.inr ⟨ha, i, d, hd, hl, u, hu, ht.symm⟩))
  · obtain ⟨u, hu, ht⟩ := onNext_next h
    cases hu
    exact .inr (.inl ⟨ha, ⟨why, hd⟩, ht.symm⟩)
  · cases h
    exact .inl ⟨ha, hm, rfl⟩
  · cases h

end Sys2Proof.Machine
end

