-- ==== Sys2Proof/Laws/Frames.lean ====
section
/-! SUPPORT. The frames of Safety.lean for the shared operations that make them: a register write, a load's end, a store of raw
bytes, a trap entry. -/

namespace Sys2Proof.Machine

theorem onlyReg_writeReg (s : State) (rd : Reg) (v : Word) : OnlyReg s (s.writeReg rd v) rd v :=
  ⟨fun r => readReg_writeReg s rd r v, rfl⟩

theorem onlyLoad_finishLoad (s : State) (rt : Reg) (v : Word) (merging : Bool) :
    OnlyLoad s (s.finishLoad rt v merging) rt v merging s.spuCalls :=
  ⟨fun r => readReg_writeReg s rt r v, rfl⟩

/-- A raw store of the low bytes of `v` inside a store. -/
theorem onlyBytes_store (s : State) (h : s.mem.wf = true) (st : Store) (off : Nat) (w : Width) (v : Word)
    (hs : off + widthBytes w ≤ st.size) :
    OnlyBytes s (s.setMem (s.mem.store st off w v)) st off (widthBytes w) (byteOfWord v) := by
  refine ⟨fun st' off' => ?_, rfl⟩
  show (s.mem.store st off w v).byte st' off' = _
  exact Memory.byte_store h st st' off off' w v hs

/-- A trap entry with no firmware agent, with the cause word read as a number. -/
theorem trapEntered_raise (s : State) (c : Cause) (bd : Bool) (resume : Word) (h : s.params.firmware = .absent) :
    TrapEntered s (s.raise c bd resume) (excCode c).toNat (c == .interrupt) bd resume := by
  rw [raise_absent _ _ _ _ h]
  obtain ⟨h1, h2, h3, h4, -, h6⟩ := trapRegisters_spec s c bd resume
  refine ⟨h1.trans (by cases c <;> cases bd <;> rfl), h2, fun k => ?_, h4, h6, fun r => by
    unfold State.readReg; rw [trapRegisters_gpr], ?_, fun e => by rw [trapRegisters_gpr, landHeld_none e]⟩
  case refine_2 => rw [trapRegisters_gpr]; exact trapRegisters_frame s c bd resume
  rw [h3]
  unfold statusPush
  generalize s.readCop0 statusReg = v
  by_cases hk : k < 32
  · simp only [BitVec.getLsbD_or, BitVec.getLsbD_and, BitVec.getLsbD_shiftLeft]
    interval_cases k <;> simp
  · have e : ∀ x : Word, x.getLsbD k = false := fun x => BitVec.getLsbD_of_ge _ _ (by omega)
    simp only [e, if_neg (show ¬k < 2 by omega), if_neg (show ¬k < 6 by omega)]

end Sys2Proof.Machine
end

