-- ==== Sys2Proof/Laws/Operands.lean ====
section
/-! SUPPORT. What the operand forms and the overflow tests compute, on integers (30_encoding.md R115; 40_alu_immediate.md R131;
41_alu_register.md R143; 45_load_store.md R210). -/

namespace Sys2Proof.Machine

theorem sext16_toInt (v : Half) : (sext16 v).toInt = v.toInt := BitVec.toInt_signExtend_of_le (by decide)

/-- The sum of two words is the exact sum, narrowed. -/
theorem add_eq_ofInt (a b : Word) : a + b = BitVec.ofInt 32 (a.toInt + b.toInt) := by
  apply BitVec.eq_of_toInt_eq
  rw [BitVec.toInt_add, BitVec.toInt_ofInt]

theorem sub_eq_ofInt (a b : Word) : a - b = BitVec.ofInt 32 (a.toInt - b.toInt) := by
  apply BitVec.eq_of_toInt_eq
  rw [BitVec.toInt_sub, BitVec.toInt_ofInt]

/-- The address of a load or store is the exact sum of base and offset, narrowed (R210). -/
theorem effAddr_eq (s : State) (base : Reg) (offset : Half) :
    s.effAddr base offset = BitVec.ofInt 32 ((s.readReg base).toInt + offset.toInt) := by
  unfold State.effAddr
  rw [add_eq_ofInt, sext16_toInt]

/-- An addition overflows exactly when the exact sum is no 32-bit value. -/
theorem addOverflows_eq_false (a b : Word) :
    addOverflows a b = false ↔ -2 ^ 31 ≤ a.toInt + b.toInt ∧ a.toInt + b.toInt < 2 ^ 31 := by
  unfold addOverflows
  have h := BitVec.toInt_add a b
  have h5 := BitVec.toInt_lt (x := a + b)
  have h6 := BitVec.le_toInt (a + b)
  simp only [decide_eq_false_iff_not, not_not, ne_eq]
  rw [h]
  constructor
  · intro e
    rw [h, ← e] at h5 h6
    simp at *
    omega
  · intro e
    rw [Int.bmod_eq_of_le_mul_two] <;> simp at * <;> omega

/-- A subtraction overflows exactly when the exact difference is no 32-bit value. -/
theorem subOverflows_eq_false (a b : Word) :
    subOverflows a b = false ↔ -2 ^ 31 ≤ a.toInt - b.toInt ∧ a.toInt - b.toInt < 2 ^ 31 := by
  unfold subOverflows
  have h := BitVec.toInt_sub (x := a) (y := b)
  have h5 := BitVec.toInt_lt (x := a - b)
  have h6 := BitVec.le_toInt (a - b)
  simp only [decide_eq_false_iff_not, not_not, ne_eq]
  rw [h]
  constructor
  · intro e
    rw [h, ← e] at h5 h6
    simp at *
    omega
  · intro e
    rw [Int.bmod_eq_of_le_mul_two] <;> simp at * <;> omega

/-- A branch target is the exact sum of pc and four times the offset, narrowed (44_branch_jump.md R180). -/
theorem branchTarget_eq (s : State) (imm : Half) :
    s.branchTarget imm = BitVec.ofInt 32 (s.pc.toInt + 4 * imm.toInt) := by
  unfold State.branchTarget
  have e : sext16 imm <<< 2 = BitVec.ofInt 32 (4 * imm.toInt) := by
    have h : (sext16 imm : Word) = BitVec.ofInt 32 imm.toInt := by
      apply BitVec.eq_of_toInt_eq
      rw [sext16_toInt, BitVec.toInt_ofInt, Int.bmod_eq_of_le_mul_two] <;>
        have := BitVec.toInt_lt (x := imm) <;> have := BitVec.le_toInt imm <;> simp at * <;> omega
    rw [h, BitVec.shiftLeft_eq_mul_twoPow, show BitVec.twoPow 32 2 = BitVec.ofInt 32 4 from rfl, ← BitVec.ofInt_mul, Int.mul_comm]
  rw [e]
  apply BitVec.eq_of_toInt_eq
  rw [BitVec.toInt_add, BitVec.toInt_ofInt, BitVec.toInt_ofInt, Int.add_bmod_bmod]

end Sys2Proof.Machine
end

