-- ==== Sys2Proof/Laws/PerInstr.lean ====
section
/-! SUPPORT. The family Encoding, one lemma per constructor: the instruction is well-formed and its encoded word has the key
bits of the instruction's row of the opcode table (30_encoding.md R103). -/

namespace Sys2Proof.Laws.Encoding

/-- What is said of each instruction. -/
def Statement (i : Instr) : Prop := i.wf = true ∧ i.row.selects (encode i) = true

/-- The key bits, from the format's mask lemma. -/
theorem of_mask {i : Instr} (h : encode i &&& i.row.mask = i.row.bits) : Statement i :=
  ⟨i.wf_all, by unfold TableRow.selects; exact beq_iff_eq.mpr h⟩

theorem addi (rs : Reg) (rt : Reg) (imm : Half) : Statement (.addi rs rt imm) := of_mask (maskPrimary_encI .. |>.trans rfl)
theorem addiu (rs : Reg) (rt : Reg) (imm : Half) : Statement (.addiu rs rt imm) := of_mask (maskPrimary_encI .. |>.trans rfl)
theorem slti (rs : Reg) (rt : Reg) (imm : Half) : Statement (.slti rs rt imm) := of_mask (maskPrimary_encI .. |>.trans rfl)
theorem sltiu (rs : Reg) (rt : Reg) (imm : Half) : Statement (.sltiu rs rt imm) := of_mask (maskPrimary_encI .. |>.trans rfl)
theorem andi (rs : Reg) (rt : Reg) (imm : Half) : Statement (.andi rs rt imm) := of_mask (maskPrimary_encI .. |>.trans rfl)
theorem ori (rs : Reg) (rt : Reg) (imm : Half) : Statement (.ori rs rt imm) := of_mask (maskPrimary_encI .. |>.trans rfl)
theorem xori (rs : Reg) (rt : Reg) (imm : Half) : Statement (.xori rs rt imm) := of_mask (maskPrimary_encI .. |>.trans rfl)
theorem lui (rt : Reg) (imm : Half) : Statement (.lui rt imm) := of_mask (maskPrimary_encI .. |>.trans rfl)
theorem add (rs : Reg) (rt : Reg) (rd : Reg) : Statement (.add rs rt rd) := of_mask (maskSpecial_encR .. |>.trans rfl)
theorem addu (rs : Reg) (rt : Reg) (rd : Reg) : Statement (.addu rs rt rd) := of_mask (maskSpecial_encR .. |>.trans rfl)
theorem sub (rs : Reg) (rt : Reg) (rd : Reg) : Statement (.sub rs rt rd) := of_mask (maskSpecial_encR .. |>.trans rfl)
theorem subu (rs : Reg) (rt : Reg) (rd : Reg) : Statement (.subu rs rt rd) := of_mask (maskSpecial_encR .. |>.trans rfl)
theorem and (rs : Reg) (rt : Reg) (rd : Reg) : Statement (.and rs rt rd) := of_mask (maskSpecial_encR .. |>.trans rfl)
theorem or (rs : Reg) (rt : Reg) (rd : Reg) : Statement (.or rs rt rd) := of_mask (maskSpecial_encR .. |>.trans rfl)
theorem xor (rs : Reg) (rt : Reg) (rd : Reg) : Statement (.xor rs rt rd) := of_mask (maskSpecial_encR .. |>.trans rfl)
theorem nor (rs : Reg) (rt : Reg) (rd : Reg) : Statement (.nor rs rt rd) := of_mask (maskSpecial_encR .. |>.trans rfl)
theorem slt (rs : Reg) (rt : Reg) (rd : Reg) : Statement (.slt rs rt rd) := of_mask (maskSpecial_encR .. |>.trans rfl)
theorem sltu (rs : Reg) (rt : Reg) (rd : Reg) : Statement (.sltu rs rt rd) := of_mask (maskSpecial_encR .. |>.trans rfl)
theorem sll (rt : Reg) (rd : Reg) (shamt : BitVec 5) : Statement (.sll rt rd shamt) := of_mask (maskSpecial_encR .. |>.trans rfl)
theorem srl (rt : Reg) (rd : Reg) (shamt : BitVec 5) : Statement (.srl rt rd shamt) := of_mask (maskSpecial_encR .. |>.trans rfl)
theorem sra (rt : Reg) (rd : Reg) (shamt : BitVec 5) : Statement (.sra rt rd shamt) := of_mask (maskSpecial_encR .. |>.trans rfl)
theorem sllv (rs : Reg) (rt : Reg) (rd : Reg) : Statement (.sllv rs rt rd) := of_mask (maskSpecial_encR .. |>.trans rfl)
theorem srlv (rs : Reg) (rt : Reg) (rd : Reg) : Statement (.srlv rs rt rd) := of_mask (maskSpecial_encR .. |>.trans rfl)
theorem srav (rs : Reg) (rt : Reg) (rd : Reg) : Statement (.srav rs rt rd) := of_mask (maskSpecial_encR .. |>.trans rfl)
theorem mult (rs : Reg) (rt : Reg) : Statement (.mult rs rt) := of_mask (maskSpecial_encR .. |>.trans rfl)
theorem multu (rs : Reg) (rt : Reg) : Statement (.multu rs rt) := of_mask (maskSpecial_encR .. |>.trans rfl)
theorem div (rs : Reg) (rt : Reg) : Statement (.div rs rt) := of_mask (maskSpecial_encR .. |>.trans rfl)
theorem divu (rs : Reg) (rt : Reg) : Statement (.divu rs rt) := of_mask (maskSpecial_encR .. |>.trans rfl)
theorem mfhi (rd : Reg) : Statement (.mfhi rd) := of_mask (maskSpecial_encR .. |>.trans rfl)
theorem mflo (rd : Reg) : Statement (.mflo rd) := of_mask (maskSpecial_encR .. |>.trans rfl)
theorem mthi (rs : Reg) : Statement (.mthi rs) := of_mask (maskSpecial_encR .. |>.trans rfl)
theorem mtlo (rs : Reg) : Statement (.mtlo rs) := of_mask (maskSpecial_encR .. |>.trans rfl)
theorem j (target : BitVec 26) : Statement (.j target) := of_mask (maskPrimary_encJ .. |>.trans rfl)
theorem jal (target : BitVec 26) : Statement (.jal target) := of_mask (maskPrimary_encJ .. |>.trans rfl)
theorem jr (rs : Reg) : Statement (.jr rs) := of_mask (maskSpecial_encR .. |>.trans rfl)
theorem jalr (rs : Reg) (rd : Reg) : Statement (.jalr rs rd) := of_mask (maskSpecial_encR .. |>.trans rfl)
theorem beq (rs : Reg) (rt : Reg) (imm : Half) : Statement (.beq rs rt imm) := of_mask (maskPrimary_encI .. |>.trans rfl)
theorem bne (rs : Reg) (rt : Reg) (imm : Half) : Statement (.bne rs rt imm) := of_mask (maskPrimary_encI .. |>.trans rfl)
theorem blez (rs : Reg) (imm : Half) : Statement (.blez rs imm) := of_mask (maskPrimary_encI .. |>.trans rfl)
theorem bgtz (rs : Reg) (imm : Half) : Statement (.bgtz rs imm) := of_mask (maskPrimary_encI .. |>.trans rfl)
theorem bltz (rs : Reg) (imm : Half) : Statement (.bltz rs imm) := of_mask (maskRegimm_encI .. |>.trans rfl)
theorem bgez (rs : Reg) (imm : Half) : Statement (.bgez rs imm) := of_mask (maskRegimm_encI .. |>.trans rfl)
theorem bltzal (rs : Reg) (imm : Half) : Statement (.bltzal rs imm) := of_mask (maskRegimm_encI .. |>.trans rfl)
theorem bgezal (rs : Reg) (imm : Half) : Statement (.bgezal rs imm) := of_mask (maskRegimm_encI .. |>.trans rfl)
theorem lb (base : Reg) (rt : Reg) (offset : Half) : Statement (.lb base rt offset) := of_mask (maskPrimary_encI .. |>.trans rfl)
theorem lbu (base : Reg) (rt : Reg) (offset : Half) : Statement (.lbu base rt offset) := of_mask (maskPrimary_encI .. |>.trans rfl)
theorem lh (base : Reg) (rt : Reg) (offset : Half) : Statement (.lh base rt offset) := of_mask (maskPrimary_encI .. |>.trans rfl)
theorem lhu (base : Reg) (rt : Reg) (offset : Half) : Statement (.lhu base rt offset) := of_mask (maskPrimary_encI .. |>.trans rfl)
theorem lw (base : Reg) (rt : Reg) (offset : Half) : Statement (.lw base rt offset) := of_mask (maskPrimary_encI .. |>.trans rfl)
theorem lwl (base : Reg) (rt : Reg) (offset : Half) : Statement (.lwl base rt offset) := of_mask (maskPrimary_encI .. |>.trans rfl)
theorem lwr (base : Reg) (rt : Reg) (offset : Half) : Statement (.lwr base rt offset) := of_mask (maskPrimary_encI .. |>.trans rfl)
theorem sb (base : Reg) (rt : Reg) (offset : Half) : Statement (.sb base rt offset) := of_mask (maskPrimary_encI .. |>.trans rfl)
theorem sh (base : Reg) (rt : Reg) (offset : Half) : Statement (.sh base rt offset) := of_mask (maskPrimary_encI .. |>.trans rfl)
theorem sw (base : Reg) (rt : Reg) (offset : Half) : Statement (.sw base rt offset) := of_mask (maskPrimary_encI .. |>.trans rfl)
theorem swl (base : Reg) (rt : Reg) (offset : Half) : Statement (.swl base rt offset) := of_mask (maskPrimary_encI .. |>.trans rfl)
theorem swr (base : Reg) (rt : Reg) (offset : Half) : Statement (.swr base rt offset) := of_mask (maskPrimary_encI .. |>.trans rfl)
theorem syscall (code : BitVec 20) : Statement (.syscall code) := of_mask (maskSpecial_encCode .. |>.trans rfl)
theorem brk (code : BitVec 20) : Statement (.brk code) := of_mask (maskSpecial_encCode .. |>.trans rfl)
theorem mfc0 (rt : Reg) (rd : Reg) : Statement (.mfc0 rt rd) := of_mask (maskCop0_encR .. |>.trans rfl)
theorem cfc0 (rt : Reg) (rd : Reg) : Statement (.cfc0 rt rd) := of_mask (maskCop0_encR .. |>.trans rfl)
theorem mtc0 (rt : Reg) (rd : Reg) : Statement (.mtc0 rt rd) := of_mask (maskCop0_encR .. |>.trans rfl)
theorem ctc0 (rt : Reg) (rd : Reg) : Statement (.ctc0 rt rd) := of_mask (maskCop0_encR .. |>.trans rfl)
theorem rfe : Statement (.rfe) := of_mask (maskCop0_encR .. |>.trans rfl)

end Sys2Proof.Laws.Encoding
end

