-- ==== Sys2Proof/Tests/Slice0.lean ====
section
/-! SUPPORT. Tests: ill-formed operand fields, decoded words, single steps, and for every statement with hypotheses a concrete
state and operands that meet them. Expected results come from the rules and from 95_test_vectors.md (tables 2.1 to 2.10). -/

namespace Sys2Proof.Tests

open Sys2Proof.Machine

/-! ## WellFormed: a field list that each check refuses -/

theorem test_wf_value_too_large : fieldsOk [⟨"rd", 11, 5, 32⟩] = false := by decide
theorem test_wf_outside_word : fieldsOk [⟨"imm", 20, 16, 0⟩] = false := by decide
theorem test_wf_overlap : fieldsOk [⟨"rt", 16, 5, 0⟩, ⟨"rd", 13, 5, 0⟩] = false := by decide
theorem test_wf_accepts : (Instr.addi 31 31 0xFFFF).wf = true ∧ (Instr.jal 0x3FFFFFF).wf = true := by decide

/-! ## Decoding, one word per constructor -/

theorem test_decode_immediate :
    decode 0x2128FFFF = .instr (.addi 9 8 0xFFFF) ∧ decode 0x25288000 = .instr (.addiu 9 8 0x8000) ∧
    decode 0x2928FFFF = .instr (.slti 9 8 0xFFFF) ∧ decode 0x2D280001 = .instr (.sltiu 9 8 1) ∧
    decode 0x3128FF00 = .instr (.andi 9 8 0xFF00) ∧ decode 0x35288000 = .instr (.ori 9 8 0x8000) ∧
    decode 0x3928FFFF = .instr (.xori 9 8 0xFFFF) ∧ decode 0x3C081F80 = .instr (.lui 8 0x1F80) := by decide

theorem test_decode_register :
    decode 0x00851020 = .instr (.add 4 5 2) ∧ decode 0x00851021 = .instr (.addu 4 5 2) ∧
    decode 0x00851022 = .instr (.sub 4 5 2) ∧ decode 0x00851023 = .instr (.subu 4 5 2) ∧
    decode 0x00851024 = .instr (.and 4 5 2) ∧ decode 0x00851025 = .instr (.or 4 5 2) ∧
    decode 0x00851026 = .instr (.xor 4 5 2) ∧ decode 0x00851027 = .instr (.nor 4 5 2) ∧
    decode 0x0085102A = .instr (.slt 4 5 2) ∧ decode 0x0085102B = .instr (.sltu 4 5 2) := by decide

theorem test_decode_shift :
    decode 0x00094100 = .instr (.sll 9 8 4) ∧ decode 0x00094102 = .instr (.srl 9 8 4) ∧
    decode 0x000947C3 = .instr (.sra 9 8 31) ∧ decode 0x01494004 = .instr (.sllv 10 9 8) ∧
    decode 0x01494006 = .instr (.srlv 10 9 8) ∧ decode 0x01494007 = .instr (.srav 10 9 8) ∧
    decode 0x00000000 = .instr (.sll 0 0 0) := by decide

theorem test_decode_muldiv :
    decode 0x00850018 = .instr (.mult 4 5) ∧ decode 0x00850019 = .instr (.multu 4 5) ∧
    decode 0x0085001A = .instr (.div 4 5) ∧ decode 0x0085001B = .instr (.divu 4 5) ∧
    decode 0x00001010 = .instr (.mfhi 2) ∧ decode 0x00001012 = .instr (.mflo 2) ∧
    decode 0x00800011 = .instr (.mthi 4) ∧ decode 0x00800013 = .instr (.mtlo 4) := by decide

theorem test_decode_transfer :
    decode 0x08004010 = .instr (.j 0x4010) ∧ decode 0x0C004010 = .instr (.jal 0x4010) ∧
    decode 0x03E00008 = .instr (.jr 31) ∧ decode 0x01008009 = .instr (.jalr 8 16) ∧
    decode 0x10850003 = .instr (.beq 4 5 3) ∧ decode 0x1540FFFE = .instr (.bne 10 0 0xFFFE) ∧
    decode 0x18800003 = .instr (.blez 4 3) ∧ decode 0x1C800003 = .instr (.bgtz 4 3) ∧
    decode 0x04800003 = .instr (.bltz 4 3) ∧ decode 0x04810003 = .instr (.bgez 4 3) ∧
    decode 0x04900003 = .instr (.bltzal 4 3) ∧ decode 0x07F10003 = .instr (.bgezal 31 3) := by decide

theorem test_decode_load_store :
    decode 0x80880001 = .instr (.lb 4 8 1) ∧ decode 0x90880003 = .instr (.lbu 4 8 3) ∧
    decode 0x84880002 = .instr (.lh 4 8 2) ∧ decode 0x94880002 = .instr (.lhu 4 8 2) ∧
    decode 0x8C88FFFC = .instr (.lw 4 8 0xFFFC) ∧ decode 0x88880005 = .instr (.lwl 4 8 5) ∧
    decode 0x98880002 = .instr (.lwr 4 8 2) ∧ decode 0xA0880003 = .instr (.sb 4 8 3) ∧
    decode 0xA4880002 = .instr (.sh 4 8 2) ∧ decode 0xAC887FFC = .instr (.sw 4 8 0x7FFC) ∧
    decode 0xA8880006 = .instr (.swl 4 8 6) ∧ decode 0xB8880003 = .instr (.swr 4 8 3) := by decide

theorem test_decode_system :
    decode 0x0048D14C = .instr (.syscall 0x12345) ∧ decode 0x03FFFFCD = .instr (.brk 0xFFFFF) ∧
    decode 0x40087800 = .instr (.mfc0 8 15) ∧ decode 0x40486000 = .instr (.cfc0 8 12) ∧
    decode 0x40886000 = .instr (.mtc0 8 12) ∧ decode 0x40C81800 = .instr (.ctc0 8 3) ∧
    decode 0x42000010 = .instr .rfe ∧ decode 0x42000000 = .instr .rfe := by decide

/-- The reserved and unimplemented encodings of table 2.7. -/
theorem test_decode_no_op :
    decode 0x4A123456 = .noOp (.coprocessor 18) ∧ decode 0xC8880000 = .noOp (.lwc 50) ∧
    decode 0xE8880000 = .noOp (.swc 58) ∧ decode 0xFFFFFFFF = .noOp (.reservedPrimary 63) ∧
    decode 0x0000000F = .noOp (.reservedSpecial 15) ∧ decode 0x04020001 = .noOp (.reservedRegimm 2) ∧
    decode 0x41000000 = .noOp (.reservedCop0 8) ∧ decode 0x50850003 = .noOp (.reservedPrimary 20) := by decide

/-- One word of each format, field by field (30_encoding.md R101, R105 to R108). -/
theorem test_decode_bit_by_bit :
    decode (0b001000#6 ++ 0b10011#5 ++ 0b01101#5 ++ 0b1000000000000001#16) = .instr (.addi 19 13 0x8001) ∧
    decode (0b000000#6 ++ 0b10011#5 ++ 0b01101#5 ++ 0b00110#5 ++ 0b00000#5 ++ 0b101011#6) = .instr (.sltu 19 13 6) ∧
    decode (0b000000#6 ++ 0b00000#5 ++ 0b01101#5 ++ 0b00110#5 ++ 0b10001#5 ++ 0b000011#6) = .instr (.sra 13 6 17) ∧
    decode (0b000000#6 ++ 0b10011#5 ++ 0b01101#5 ++ 0b00000#5 ++ 0b00000#5 ++ 0b011010#6) = .instr (.div 19 13) ∧
    decode (0b000011#6 ++ 0b10000000000000000000000001#26) = .instr (.jal 0x2000001) ∧
    decode (0b000001#6 ++ 0b10011#5 ++ 0b10001#5 ++ 0b1000000000000001#16) = .instr (.bgezal 19 0x8001) ∧
    decode (0b101110#6 ++ 0b10011#5 ++ 0b01101#5 ++ 0b1000000000000001#16) = .instr (.swr 19 13 0x8001) ∧
    decode (0b010000#6 ++ 0b00110#5 ++ 0b01101#5 ++ 0b00110#5 ++ 0b00000#5 ++ 0b000000#6) = .instr (.ctc0 13 6) := by
  decide

/-- The table numbers bit 0 as the least significant bit of the word, and the bytes lie little-endian (R100). -/
theorem test_decodeTableWord : decodeTableWord 32 0x2128FFFF = some (.addi 9 8 0xFFFF) ∧
    decodeBytes [0xFF, 0xFF, 0x28, 0x21, 0xAA] = some (.instr (.addi 9 8 0xFFFF), [0xAA]) ∧
    decodeTableWord 32 0xFFFFFFFF = none := by decide

/-! ## Single steps -/

/-- The state the vectors start from: reset, with the parameters of 95_test_vectors.md. -/
def vec : State := State.resetWith Params.specDefault resetStatus []

/-- `vec` with one parameter set changed. -/
def vecWith (p : Params) : State := { vec with params := p }

/-- `s` about to run `w` at 0x80010000. -/
def placed (w : Word) (s : State) : State := (s.setPc 0x80010000).placeFetchWord w

/-- One step of it. -/
def run (w : Word) (s : State) : Option State :=
  match step (placed w s) with
  | .next t => some t
  | _ => none

/-- The refusal of an outcome. -/
def stopped : Host.Outcome State Fault Refusal → Option Refusal
  | .refused r => some r
  | _ => none

/-- A register after one step. -/
def reg (r : Reg) (w : Word) (s : State) : Option Word := (run w s).map (·.readReg r)

def two (a b : Word) : State := (vec.writeReg 4 a).writeReg 5 b
def hiLo (s : State) : State := (s.setHi 0x11111111).setLo 0x22222222
def hl (w : Word) (s : State) : Option (Word × Word) := (run w s).map fun t => (t.hi, t.lo)

-- 2.1
theorem test_addi : reg 8 0x2128FFFF vec = some 0xFFFFFFFF := by decide
theorem test_addi_overflow :
    reg 8 0x21280001 (vec.writeReg 9 0x7FFFFFFF) = some 0x80000000 ∧
    (run 0x21280001 ((vecWith { Params.specDefault with overflowTraps := true }).writeReg 9 0x7FFFFFFF)).map
      (fun t => (t.readReg 8, t.readCop0 13, t.readCop0 14, t.pc)) = some (0, 0x30, 0x80010000, 0xBFC00180) := by decide
theorem test_addiu : reg 8 0x25288000 (vec.writeReg 9 0x80000000) = some 0x7FFF8000 := by decide
theorem test_addiu_zero : reg 0 0x25200005 (vec.writeReg 9 1) = some 0 := by decide
theorem test_slti : reg 8 0x2928FFFF (vec.writeReg 9 0xFFFFFFFE) = some 1 := by decide
theorem test_slti_not : reg 8 0x2928FFFF (vec.writeReg 9 0x7FFFFFFF) = some 0 := by decide
theorem test_sltiu : reg 8 0x2D28FFFF (vec.writeReg 9 0x7FFFFFFF) = some 1 := by decide
theorem test_sltiu_equal : reg 8 0x2D28FFFF (vec.writeReg 9 0xFFFFFFFF) = some 0 := by decide
theorem test_andi : reg 8 0x3128FF00 (vec.writeReg 9 0x12345678) = some 0x5600 := by decide
theorem test_ori : reg 8 0x35288000 (vec.writeReg 9 0x12340000) = some 0x12348000 := by decide
theorem test_xori : reg 8 0x3928FFFF (vec.writeReg 9 0xFFFFFFFF) = some 0xFFFF0000 := by decide
theorem test_lui : reg 8 0x3C081F80 (vec.writeReg 8 0xFFFFFFFF) = some 0x1F800000 := by decide
-- 2.2
theorem test_add : reg 2 0x00851020 (two 0x7FFFFFFF 1) = some 0x80000000 := by decide
theorem test_addu : reg 2 0x00851021 (two 0xFFFFFFFF 1) = some 0 := by decide
theorem test_addu_same_register : reg 4 0x00842021 (two 0xC0000001 0) = some 0x80000002 := by decide
theorem test_sub : reg 2 0x00851022 (two 0x80000000 1) = some 0x7FFFFFFF := by decide
theorem test_subu : reg 2 0x00851023 (two 0 1) = some 0xFFFFFFFF := by decide
theorem test_and : reg 2 0x00851024 (two 0xFF00FF00 0x0FF00FF0) = some 0x0F000F00 := by decide
theorem test_or : reg 2 0x00851025 (two 0xFF00FF00 0x0FF00FF0) = some 0xFFF0FFF0 := by decide
theorem test_xor : reg 2 0x00851026 (two 0xFF00FF00 0x0FF00FF0) = some 0xF0F0F0F0 := by decide
theorem test_nor : reg 2 0x00851027 (two 0xFF00FF00 0x0FF00FF0) = some 0x000F000F := by decide
theorem test_slt : reg 2 0x0085102A (two 0x80000000 0x7FFFFFFF) = some 1 := by decide
theorem test_sltu : reg 2 0x0085102B (two 0x80000000 0x7FFFFFFF) = some 0 := by decide
-- 2.3
theorem test_nop : (run 0 vec).map (fun t => (t.pc, t.cycle, t.code, t.gpr)) =
    some (0x80010004, 1, 0, Vector.replicate 32 0) := by decide
theorem test_sll : reg 8 0x000947C0 (vec.writeReg 9 3) = some 0x80000000 := by decide
theorem test_srl : reg 8 0x00094102 (vec.writeReg 9 0xF000000F) = some 0x0F000000 := by decide
theorem test_sra : reg 8 0x000947C3 (vec.writeReg 9 0x80000000) = some 0xFFFFFFFF := by decide
theorem test_sllv : reg 8 0x01494004 ((vec.writeReg 9 1).writeReg 10 0x21) = some 2 := by decide
theorem test_srlv : reg 8 0x01494006 ((vec.writeReg 9 0x80000000).writeReg 10 0xFFFFFFFF) = some 1 := by decide
theorem test_srav : reg 8 0x01494007 ((vec.writeReg 9 0x80000000).writeReg 10 0x3F) = some 0xFFFFFFFF := by decide
theorem test_srav_zero : reg 8 0x01494007 ((vec.writeReg 9 0x7FFFFFFF).writeReg 10 0x20) = some 0x7FFFFFFF := by decide
-- 2.4
theorem test_mult : hl 0x00850018 (two 0x80000000 0x7FFFFFFF) = some (0xC0000000, 0x80000000) := by decide
theorem test_mult_minus_one : hl 0x00850018 (two 0xFFFFFFFF 0xFFFFFFFF) = some (0, 1) := by decide
theorem test_multu : hl 0x00850019 (two 0xFFFFFFFF 0xFFFFFFFF) = some (0xFFFFFFFE, 1) := by decide
theorem test_div_signs : hl 0x0085001A (two 0xFFFFFFF9 2) = some (0xFFFFFFFF, 0xFFFFFFFD) ∧
    hl 0x0085001A (two 7 0xFFFFFFFE) = some (1, 0xFFFFFFFD) := by decide
theorem test_div_corners : hl 0x0085001A (hiLo (two 7 0)) = some (0x11111111, 0x22222222) ∧
    hl 0x0085001A (two 0x80000000 0xFFFFFFFF) = some (0, 0x80000000) := by decide
theorem test_divu : hl 0x0085001B (two 0xFFFFFFF9 2) = some (1, 0x7FFFFFFC) := by decide
theorem test_divu_zero : hl 0x0085001B (hiLo (two 0xFFFFFFF9 0)) = some (0x11111111, 0x22222222) := by decide
theorem test_mfhi : reg 2 0x00001010 (hiLo vec) = some 0x11111111 := by decide
theorem test_mflo : reg 2 0x00001012 (hiLo vec) = some 0x22222222 := by decide
theorem test_mthi : hl 0x00800011 (hiLo (two 0xCAFEF00D 0)) = some (0xCAFEF00D, 0x22222222) := by decide
theorem test_mtlo : hl 0x00800013 (hiLo (two 0xCAFEF00D 0)) = some (0x11111111, 0xCAFEF00D) := by decide
-- 2.5

/-- The slot state, pc and $ra after one step. -/
def tr (w : Word) (s : State) : Option (Slot × Word × Word) := (run w s).map fun t => (t.slot, t.pc, t.readReg 31)

theorem test_j : tr 0x08004010 vec = some (.taken 0x80010040, 0x80010004, 0) := by decide
theorem test_jal : tr 0x0C004010 vec = some (.taken 0x80010040, 0x80010004, 0x80010008) := by decide
theorem test_jr : tr 0x03E00008 (vec.writeReg 31 0x80010100) = some (.taken 0x80010100, 0x80010004, 0x80010100) := by
  decide
theorem test_jalr : tr 0x0100F809 (vec.writeReg 8 0x80010200) = some (.taken 0x80010200, 0x80010004, 0x80010008) := by
  decide
theorem test_jalr_same_register : (run 0x01004009 (vec.writeReg 8 0x80010200)).map (fun t => (t.slot, t.readReg 8)) =
    some (.taken 0x80010200, 0x80010008) := by decide
theorem test_beq : tr 0x10850003 (two 5 5) = some (.taken 0x80010010, 0x80010004, 0) ∧
    tr 0x10850003 (two 5 6) = some (.notTaken, 0x80010004, 0) := by decide
theorem test_beq_backward : tr 0x1000FFFE vec = some (.taken 0x8000FFFC, 0x80010004, 0) := by decide
theorem test_bne : tr 0x14850003 (two 5 6) = some (.taken 0x80010010, 0x80010004, 0) ∧
    tr 0x14850003 (two 5 5) = some (.notTaken, 0x80010004, 0) := by decide
theorem test_blez : tr 0x18800003 (two 0 0) = some (.taken 0x80010010, 0x80010004, 0) ∧
    tr 0x18800003 (two 1 0) = some (.notTaken, 0x80010004, 0) := by decide
theorem test_bgtz : tr 0x1C800003 (two 1 0) = some (.taken 0x80010010, 0x80010004, 0) ∧
    tr 0x1C800003 (two 0 0) = some (.notTaken, 0x80010004, 0) := by decide
theorem test_bltz : tr 0x04800003 (two 0xFFFFFFFF 0) = some (.taken 0x80010010, 0x80010004, 0) ∧
    tr 0x04800003 (two 0 0) = some (.notTaken, 0x80010004, 0) := by decide
theorem test_bgez : tr 0x04810003 (two 0 0) = some (.taken 0x80010010, 0x80010004, 0) ∧
    tr 0x04810003 (two 0x80000000 0) = some (.notTaken, 0x80010004, 0) := by decide
theorem test_bltzal : tr 0x04900003 (two 0xFFFFFFFF 0) = some (.taken 0x80010010, 0x80010004, 0x80010008) := by decide
theorem test_bltzal_not_taken : tr 0x04900003 (two 0 0) = some (.notTaken, 0x80010004, 0x80010008) ∧
    tr 0x04900003 (vecWith { Params.specDefault with linkWhenNotTaken := false }) =
      some (.notTaken, 0x80010004, 0) := by decide
theorem test_bgezal : tr 0x04910003 (two 0 0) = some (.taken 0x80010010, 0x80010004, 0x80010008) := by decide
theorem test_bgezal_own_link : tr 0x07F10003 (vec.writeReg 31 0x80000000) =
    some (.notTaken, 0x80010004, 0x80010008) := by decide

/-- A delay slot: `addiu $t0, $t0, -1` behind a taken and a not-taken branch. -/
theorem test_delay_slot :
    tr 0x2508FFFF (vec.setSlot (.taken 0x80010040)) = some (.none, 0x80010040, 0) ∧
    tr 0x2508FFFF (vec.setSlot .notTaken) = some (.none, 0x80010004, 0) := by decide

theorem test_transfer_in_slot :
    stopped (step (placed 0x10000001 (vec.setSlot .notTaken))) = some .transferInDelaySlot := by decide
-- 2.6

/-- The two words at 0x80020000. -/
def mem2 (a b : Word) : State := (vec.rawWrite 0x80020000 .word a).rawWrite 0x80020004 .word b

def words (w : Word) (s : State) : Option (Word × Word) :=
  (run w s).map fun t => (t.rawRead 0x80020000 .word, t.rawRead 0x80020004 .word)

def ld (a : Word) : State := (mem2 0x818283F4 0x77665544).writeReg 4 a
def un (a : Word) : State := ((mem2 0x33221100 0x77665544).writeReg 8 0xAABBCCDD).writeReg 4 a

theorem test_lb : reg 8 0x80880001 (ld 0x80020000) = some 0xFFFFFF83 := by decide
theorem test_lbu : reg 8 0x90880003 (ld 0x80020000) = some 0x81 := by decide
theorem test_lh : reg 8 0x84880002 (ld 0x80020000) = some 0xFFFF8182 := by decide
theorem test_lhu : reg 8 0x94880000 (ld 0x80020000) = some 0x83F4 := by decide
theorem test_lw : reg 8 0x8C88FFFC (ld 0x80020008) = some 0x77665544 ∧
    reg 8 0x8C880000 (ld 0xA0620000) = some 0x818283F4 := by decide
theorem test_lw_unmapped : reg 8 0x8C880000 ((ld 0x00800000).writeReg 8 0x55) = some 0 := by decide
theorem test_lwl : reg 8 0x88880001 (un 0x80020004) = some 0x5544CCDD := by decide
theorem test_lwr : reg 8 0x98880001 (un 0x80020000) = some 0xAA332211 := by decide
theorem test_sb : words 0xA0880001 (un 0x80020000) = some (0x3322DD00, 0x77665544) := by decide
theorem test_sh : words 0xA4880002 (un 0x80020000) = some (0xCCDD1100, 0x77665544) := by decide
theorem test_sw : words 0xAC880004 (un 0x80020000) = some (0x33221100, 0xAABBCCDD) := by decide
theorem test_sw_mirror : (run 0xAC887FFC (un 0x801F8004)).map (fun t => (t.rawRead 0x80000000 .word,
    t.rawRead 0x80200000 .word, t.rawRead 0xA0000000 .word)) = some (0xAABBCCDD, 0xAABBCCDD, 0xAABBCCDD) := by decide
theorem test_swl : words 0xA8880001 (un 0x80020004) = some (0x33221100, 0x7766AABB) := by decide
theorem test_swr : words 0xB8880001 (un 0x80020000) = some (0xBBCCDD00, 0x77665544) := by decide
-- 2.7

/-- Status, Cause, EPC and pc after one step from a given Status. -/
def trap (w : Word) (s : State) : Option (Word × Word × Word × Word) :=
  (run w s).map fun t => (t.readCop0 12, t.readCop0 13, t.readCop0 14, t.pc)

theorem test_syscall : trap 0x0000000C (vec.writeCop0 12 0x401) = some (0x404, 0x20, 0x80010000, 0x80000080) ∧
    trap 0x0000000C (vec.writeCop0 12 0x00400001) = some (0x00400004, 0x20, 0x80010000, 0xBFC00180) := by decide
theorem test_syscall_in_slot : trap 0x0000000C ((vec.writeCop0 12 0x3F).setSlot .notTaken) =
    some (0x3C, 0x80000020, 0x8000FFFC, 0x80000080) := by decide
theorem test_break_in_slot : trap 0x0000000D ((vec.writeCop0 12 0x401).setSlot (.taken 0x80010040)) =
    some (0x404, 0x80000024, 0x8000FFFC, 0x80000080) := by decide
theorem test_break_ignored : (run 0x0000000D (vecWith { Params.specDefault with breakTraps := false })).map (·.pc) =
    some 0x80010004 := by decide
theorem test_mfc0 : reg 8 0x40087800 vec = some 2 := by decide
theorem test_cfc0 : reg 8 0x40486000 vec = some 0x10600000 := by decide
theorem test_mtc0 : (run 0x40886000 (vec.writeReg 8 0xFFFFFFFF)).map (·.readCop0 12) = some 0xFFFFFFFF := by decide
theorem test_ctc0 : (run 0x40C81800 (vec.writeReg 8 0x12345678)).map (·.readCop0 3) = some 0x12345678 := by decide
theorem test_rfe : (run 0x42000010 (vec.writeCop0 12 0x34)).map (·.readCop0 12) = some 0x3D ∧
    (run 0x42000010 (vec.writeCop0 12 0xFFFFFFC2)).map (·.readCop0 12) = some 0xFFFFFFC0 := by decide
theorem test_no_op : (run 0xC8880000 (vec.writeReg 4 0x80020000)).map (fun t => (t.pc, t.cycle, t.gpr)) =
    some (0x80010004, 1, (vec.writeReg 4 0x80020000).gpr) := by decide

def hle : State := vecWith { Params.specDefault with firmware := .hle }

theorem test_shim : trap 0x0000000C ((hle.writeCop0 12 0x43F).writeReg 4 1) = some (0x3E, 0x20, 0x80010000, 0x80010004) ∧
    trap 0x0000000C (hle.writeReg 4 2 |>.writeCop0 12 0) = some (0x401, 0x20, 0x80010000, 0x80010004) := by decide

/-- A load into x[4] held back under policy hardware has landed once the next instruction has trapped (60_exceptions.md R253): an ADD
that overflows on the value before the load, and a SYSCALL whose x[4] = 1 before the load selects the shim (R360: SYSCALL reads
register 4). -/
theorem test_held_load_lands_at_trap :
    (fun s : State => (reg 4 0x00854020 s, trap 0x00854020 s))
      (({ vecWith { Params.specDefault with loadDelay := .hardware, overflowTraps := true } with
          loadDelay := some ⟨4, 0x7FFFFFFF, false, false⟩ }.writeReg 4 7).writeReg 5 1) =
      (some 7, some (0x10600000, 0x30, 0x80010000, 0xBFC00180)) ∧
    (fun s : State => (reg 4 0x0000000C s, (run 0x0000000C s).map (·.pc)))
      ({ vecWith { Params.specDefault with loadDelay := .hardware, firmware := .hle } with
          loadDelay := some ⟨4, 1, false, false⟩ }.writeReg 4 7) = (some 7, some 0x80010004) := by decide
-- 2.8

def acked (p : AckPolicy) (w : Width) (v : Word) : Word :=
  ((((vecWith { Params.specDefault with istatAck := p }).setIoWord iStatOff 0x19).setIoWord iMaskOff 0x11).memWrite
    0x1F801070 w v).ioWord iStatOff

theorem test_acknowledge :
    [0x10, 0xFFFFFFEF, 0, 0xFFFFFFFF].map (acked .docAndNot .word) = [0x09, 0x18, 0x19, 0x08] ∧
    [0x10, 0xFFFFFFEF, 0, 0xFFFFFFFF].map (acked .lineageAnd .half) = [0x10, 0x01, 0x00, 0x11] ∧
    [0x10, 0xFFFFFFEF, 0, 0xFFFFFFFF].map (acked .hardwareAnd .word) = [0x10, 0x09, 0x00, 0x19] := by decide

theorem test_acknowledge_raw_byte : (vec.setIoWord iStatOff 0x19 |>.memWrite 0x1F801070 .byte 0xE6).ioWord iStatOff = 0xE6 := by
  decide

/-- A channel ready for one word at RAM offset 8: DPCR, DICR, D4_MADR and D4_BCR. -/
def dma (dicr : Word) : State :=
  (((vec.setIoWord dpcrOff 0x00080000).setIoWord dicrOff dicr).setIoWord d4MadrOff 8).setIoWord d4BcrOff 0x00010001

theorem test_dma_write : (fun t : State => (t.ioWord d4ChcrOff, t.ioWord dicrOff, t.ioWord iStatOff, t.spuCalls))
    ((dma 0x00100000).memWrite 0x1F8010C8 .word 0x01000201) =
      (0x201, 0x10100000, 8, [.writeDmaBlock 8 1 []]) := by decide

theorem test_dma_read : (fun t : State => (t.rawRead 8 .word, t.rawRead 12 .word, t.ioWord d4ChcrOff, t.ioWord iStatOff))
    (((dma 0).rawWrite 8 .word 0x11223344 |>.rawWrite 12 .word 0x55667788).memWrite 0x1F8010C8 .word 0x01000200) =
      (0, 0x55667788, 0x200, 0) := by decide

theorem test_spu_window : vec.memRead 0x1F801DFE .half = (0, vec.logSpu (.readRegister 0x1F801DFE)) ∧
    (vec.memWrite 0x1F801C00 .half 0x1234).spuCalls = [.writeRegister 0x1F801C00 0x1234] := by decide
-- 2.9

/-- The state at cycle `c`. -/
def atCycle (c : Word) (s : State) : State := { s with cycle := c }

theorem test_counter_mode :
    ((atCycle 1080 ((atCycle 1000 vec).memWrite 0x1F801124 .half 0x200)).memRead 0x1F801120 .word).1 = 10 := by decide
theorem test_counter_rate : ((atCycle 1000 vec).memWrite 0x1F801114 .half 0x110 |>.memWrite 0x1F801118 .half 10).ctr[1] =
    ⟨0, 0x110, 10, 1000, some 21540, 2154, 0x20⟩ := by decide
theorem test_counter_wrap : ((atCycle 50 vec).memWrite 0x1F801104 .half 0x20 |> atCycle 60 |>.memWrite 0x1F801100 .half 0xFFF0
    |> atCycle 75 |>.evaluate).ctr[0] = ⟨0, 0x20, 0, 75, none, 1, 0x10⟩ := by decide
theorem test_counter_target : (vec.memWrite 0x1F801108 .half 1000 |>.memWrite 0x1F801104 .half 0x50 |> atCycle 30
    |>.memWrite 0x1F801108 .half 40).ctr[0] = ⟨30, 0x50, 40, 30, some 10, 1, 0x10⟩ := by decide
theorem test_counter_stopped : ((atCycle 5 vec).memWrite 0x1F801124 .half 0x11).ctr[2].cycles = none := by decide
theorem test_frame_timer : (fun t : State => (t.ctr[3], t.ioWord iStatOff)) (atCycle 564480 vec).evaluate =
    (⟨0, 0x58, 1, 564480, some 564480, 564480, 1⟩, 1) := by decide

/-- An interrupt at the end of a step: EPC is the next instruction (60_exceptions.md R260, program P4). -/
theorem test_interrupt : trap 0 (((vec.writeCop0 12 0x401).setIoWord iStatOff 0x10).setIoWord iMaskOff 0x10) =
    some (0x404, 0x400, 0x80010004, 0x80000080) := by decide
-- 2.10
theorem test_isolation : (fun t : State => (t.cacheIsolated, (t.memRead 0x80020000 .word).1, t.fetch 0x20000))
    ((mem2 0x55 0).memWrite 0xFFFE0130 .word 0x804) = (true, 0, 0) ∧
    (((mem2 0x55 0).memWrite 0xFFFE0130 .word 0x804).memWrite 0xFFFE0130 .word 0x1E988).rawRead 0xA0020000 .word = 0x55 ∧
    (vec.memWrite 0xFFFE0130 .half 0x804).cacheIsolated = false := by decide

/-! ## The host's hooks -/

theorem test_fetch_word : State.reset.withFetchWord 32 0x3C081F80 = State.reset.rawWrite 0xBFC00000 .word 0x3C081F80 := by
  decide

/-! ## Witnesses: for each statement with hypotheses, a state and operands that meet them, clause by clause -/

/-- `s` with the slot state the executing instruction consumed. -/
def inSlot (d : Slot) (s : State) : State := { s with ctx := ⟨d, false, none⟩ }

/-- `vec` with x[4] = a. -/
def at4 (a : Word) : State := vec.writeReg 4 a

def addrOf (s : State) (base : Reg) (offset : Half) : Word := BitVec.ofInt 32 ((s.readReg base).toInt + offset.toInt)

theorem witness_DecoderReadsTheFields : decode 0x2128FFFF = .instr (.addi 9 8 0xFFFF) := by decide

theorem witness_NoOpEncodings_none : let s := placed 0xFFFFFFFF vec
    wordAligned s.pc = true ∧ decode (s.fetch s.pc) = .noOp (.reservedPrimary 63) ∧ s.executing.quiet :=
  ⟨by decide, by decide, by decide, by decide⟩

theorem witness_NoOpEncodings_taken : let s := placed 0x4A123456 (vec.setSlot (.taken 0x80010040))
    wordAligned s.pc = true ∧ decode (s.fetch s.pc) = .noOp (.coprocessor 18) ∧ s.executing.quiet :=
  ⟨by decide, by decide, by decide, by decide⟩

/-- The load before is into x[8], the instruction reads x[9]. -/
theorem witness_StepRunsDecodedInstruction_next :
    let s := placed 0x2129FFFF { vec with loadDelay := some ⟨8, 0, false, false⟩ }
    wordAligned s.pc = true ∧ decode (s.fetch s.pc) = .instr (.addi 9 9 0xFFFF) ∧ s.noHazard (.addi 9 9 0xFFFF) ∧
      ∃ u, exec (.addi 9 9 0xFFFF) s.executing = .next u :=
  ⟨by decide, by decide, fun d h => by cases h; decide, _, rfl⟩

theorem witness_StepRunsDecodedInstruction_refused : let s := placed 0x08000000 (vec.setSlot .notTaken)
    wordAligned s.pc = true ∧ decode (s.fetch s.pc) = .instr (.j 0) ∧ s.noHazard (.j 0) ∧
      exec (.j 0) s.executing = .refused .transferInDelaySlot :=
  ⟨by decide, by decide, (fun d h => by cases h), rfl⟩

theorem witness_EndOfStep : vec.quiet ∧ evaluationPoint false (.taken 0) .none = true ∧
    evaluationPoint true .notTaken .none = true ∧ evaluationPoint true .none .notTaken = false :=
  ⟨⟨by decide, by decide⟩, by decide, by decide, by decide⟩

/-- A taken transfer, a branch not taken, and a trap in the slot. -/
theorem witness_DelaySlotCompletes_taken : let s := placed 0x2108FFFF (vec.setSlot (.taken 0x80010040))
    wordAligned s.pc = true ∧ decode (s.fetch s.pc) = .instr (.addi 8 8 0xFFFF) ∧ s.noHazard (.addi 8 8 0xFFFF) ∧
      s.slot ≠ .none ∧ ∃ u, exec (.addi 8 8 0xFFFF) s.executing = .next u ∧ u.quiet ∧ u.ctx.trapped = false :=
  ⟨by decide, by decide, (fun d h => by cases h), by decide, _, rfl, ⟨by decide, by decide⟩, by decide⟩

theorem witness_DelaySlotCompletes_notTaken : let s := placed 0x2108FFFF (vec.setSlot .notTaken)
    s.slot ≠ .none ∧ ∃ u, exec (.addi 8 8 0xFFFF) s.executing = .next u ∧ u.quiet ∧ u.ctx.trapped = false :=
  ⟨by decide, _, rfl, ⟨by decide, by decide⟩, by decide⟩

theorem witness_DelaySlotCompletes_trapped : let s := placed 0x0000000C (vec.setSlot (.taken 0x80010040))
    s.slot ≠ .none ∧ ∃ u, exec (.syscall 0) s.executing = .next u ∧ u.quiet ∧ u.ctx.trapped = true :=
  ⟨by decide, _, rfl, ⟨by decide, by decide⟩, by decide⟩

/-- `addu $t1, $t0, $zero` right after a load of x[8], under policy `p`. -/
def useAfterLoad (p : LoadDelayPolicy) (inTakenSlot : Bool) : State :=
  placed 0x01004821
    { vecWith { Params.specDefault with loadDelay := p } with loadDelay := some ⟨8, 0x11, false, inTakenSlot⟩ }

theorem witness_LoadUsePolicies (p : LoadDelayPolicy) (b : Bool) : let s := useAfterLoad p b
    wordAligned s.pc = true ∧ decode (s.fetch s.pc) = .instr (.addu 8 0 9) ∧ s.loadDelay = some ⟨8, 0x11, false, b⟩ ∧
      isHazard s.params 8 false (.addu 8 0 9) = true ∧ s.params.loadDelay = p ∧ s.params.linkWhenNotTaken = true ∧
      s.params.firmware = .absent ∧ (∃ u, exec (.addu 8 0 9) s.executing = .next u) ∧
      ∃ u, exec (.addu 8 0 9) (s.executing.holdBack ⟨8, 0x11, false, b⟩) = .next u ∧ u.ctx.trapped = false := by
  cases p <;> cases b <;>
    exact ⟨by decide, by decide, by decide, by decide, by decide, by decide, by decide, ⟨_, rfl⟩, _, rfl, by decide⟩

/-- The clauses of a delayed load: an instruction that writes the register itself, a linking branch that leaves its link out, and
one that traps. -/
theorem witness_LoadUsePolicies_delayed :
    (let d : LoadDelay := ⟨8, 0x11, false, false⟩
     let s := placed 0x25080001
       { vecWith { Params.specDefault with loadDelay := .hardware } with loadDelay := some d }
     decode (s.fetch s.pc) = .instr (.addiu 8 8 1) ∧ isHazard s.params 8 false (.addiu 8 8 1) = true ∧
       regWritten (.addiu 8 8 1) = some 8 ∧
       ∃ u, exec (.addiu 8 8 1) (s.executing.holdBack d) = .next u ∧ u.ctx.trapped = false) ∧
    (let d : LoadDelay := ⟨31, 0x11, false, false⟩
     let s := placed 0x07F00003
       { vecWith { Params.specDefault with loadDelay := .hardware, linkWhenNotTaken := false } with loadDelay := some d }
     decode (s.fetch s.pc) = .instr (.bltzal 31 3) ∧ isHazard s.params 31 false (.bltzal 31 3) = true ∧
       regWritten (.bltzal 31 3) = some 31 ∧
       ∃ u, exec (.bltzal 31 3) (s.executing.holdBack d) = .next u ∧ u.ctx.trapped = false ∧ u.slot = .notTaken) ∧
    (let d : LoadDelay := ⟨4, 0x7FFFFFFF, false, false⟩
     let s := placed 0x00854020
       ({ vecWith { Params.specDefault with loadDelay := .hardware, overflowTraps := true } with
          loadDelay := some d }.writeReg 5 1)
     decode (s.fetch s.pc) = .instr (.add 4 5 8) ∧ isHazard s.params 4 false (.add 4 5 8) = true ∧
       s.params.firmware = .absent ∧
       ∃ u, exec (.add 4 5 8) (s.executing.holdBack d) = .next u ∧ u.ctx.trapped = true) :=
  ⟨⟨by decide, by decide, by decide, _, rfl, by decide⟩, ⟨by decide, by decide, by decide, _, rfl, by decide, by decide⟩,
    by decide, by decide, by decide, _, rfl, by decide⟩

theorem witness_UnreadRegistersDoNotMatter : vec.params.firmware = .absent ∧ 9 ∉ regsRead vec.params (.sw 4 8 0) ∧
    regWritten (.sw 4 8 0) ≠ some 9 ∧ vec.ctx.held = none := by decide

theorem witness_StepBookkeeping : (∃ t, step (placed 0x0000000C vec) = .next t) ∧
    wordAligned (placed 0x0000000C vec).pc = true := ⟨⟨_, rfl⟩, by decide⟩

theorem witness_PcDuringExecution :
    (∃ u, exec (.lui 8 1) vec = .next u ∧ u.ctx.trapped = false ∧ (Instr.lui 8 1).isTransfer = false) ∧
    ∃ u, exec (.jal 1) vec = .next u ∧ u.ctx.trapped = false ∧ (Instr.jal 1).isTransfer = true :=
  ⟨⟨_, rfl, by decide, by decide⟩, _, rfl, by decide, by decide⟩

def refusing : State := at4 0x80020001
def bytewise (a : Word) : State := (vecWith { Params.specDefault with misaligned := .bytewise }).writeReg 4 a
def trapping (a : Word) : State := (vecWith { Params.specDefault with misaligned := .addressError }).writeReg 4 a

theorem witness_WhenInstructionsStop_stops :
    (Instr.isTransfer (.j 0) = true ∧ (inSlot .notTaken vec).inDelaySlot = true) ∧
    (refusing.params.loadDelay ≠ .lineage ∧ (Instr.lw 4 8 0).alignedAccess = some (.word, 4, 0) ∧
      alignedFor .word (refusing.effAddr 4 0) = false ∧ refusing.params.misaligned = .refuse) ∧
    ((bytewise 0x801FFFFF).params.misaligned = .bytewise ∧ alignedFor .half ((bytewise 0x801FFFFF).effAddr 4 0) = false ∧
      (bytewise 0x801FFFFF).fitsStore ((bytewise 0x801FFFFF).effAddr 4 0) .half = false) := by decide

theorem witness_WhenInstructionsStop_completes :
    alignedFor .word ((at4 0x80020004).effAddr 4 0) = true ∧ (trapping 0x80020001).params.misaligned = .addressError ∧
    ((bytewise 0x801FFFFD).params.misaligned = .bytewise ∧
      (bytewise 0x801FFFFD).fitsStore ((bytewise 0x801FFFFD).effAddr 4 0) .half = true) ∧
    vec.inDelaySlot = false := by decide

def ovf (a b : Word) : State :=
  ((vecWith { Params.specDefault with overflowTraps := true }).writeReg 4 a).writeReg 5 b

theorem witness_AddImmediate :
    ((ovf 0x7FFFFFFE 0).params.overflowTraps = true ∧ ((ovf 0x7FFFFFFE 0).readReg 4).toInt + (1 : Half).toInt = 2 ^ 31 - 1) ∧
    (((ovf 0x80000001 0).readReg 4).toInt + (0xFFFF : Half).toInt = -2 ^ 31) ∧
    ((ovf 0x7FFFFFFF 0).params.firmware = .absent ∧ ((ovf 0x7FFFFFFF 0).readReg 4).toInt + (1 : Half).toInt = 2 ^ 31) ∧
    (((ovf 0x80000000 0).readReg 4).toInt + (0xFFFF : Half).toInt = -2 ^ 31 - 1) ∧
    vec.params.overflowTraps = false := by decide

theorem witness_AddSubtractRegister :
    ((ovf 0x7FFFFFFE 1).params.overflowTraps = true ∧
      ((ovf 0x7FFFFFFE 1).readReg 4).toInt + ((ovf 0x7FFFFFFE 1).readReg 5).toInt = 2 ^ 31 - 1) ∧
    (((ovf 0x80000001 1).readReg 4).toInt - ((ovf 0x80000001 1).readReg 5).toInt = -2 ^ 31) ∧
    ((ovf 0x7FFFFFFF 1).params.firmware = .absent ∧
      ((ovf 0x7FFFFFFF 1).readReg 4).toInt + ((ovf 0x7FFFFFFF 1).readReg 5).toInt = 2 ^ 31) ∧
    (((ovf 0x80000000 1).readReg 4).toInt - ((ovf 0x80000000 1).readReg 5).toInt = -2 ^ 31 - 1) := by decide

theorem witness_SignedDivide :
    ((two 7 0).readReg 5).toInt = 0 ∧
    (((two 0x80000000 1).readReg 4).toInt = -2 ^ 31 ∧ ((two 0x80000000 1).readReg 5).toInt ≠ 0 ∧
      ((two 0x80000000 1).readReg 5).toInt ≠ -1) ∧
    ((two 0x80000000 0xFFFFFFFF).readReg 4).toInt = -2 ^ 31 ∧ ((two 0x80000000 0xFFFFFFFF).readReg 5).toInt = -1 := by decide

theorem witness_UnsignedDivide : (two 7 0).readReg 5 = 0 ∧ (two 7 1).readReg 5 ≠ 0 := by decide

/-- JumpsRecordTheirTarget, ConditionalBranches and LinkingBranches: outside a delay slot, every condition both ways. -/
theorem witness_transfers :
    vec.inDelaySlot = false ∧ ((two 0xFFFFFFFF 0).readReg 4).toInt < 0 ∧ 0 ≤ ((two 0 0).readReg 4).toInt ∧
    vec.params.linkWhenNotTaken = true ∧
    (vecWith { Params.specDefault with linkWhenNotTaken := false }).params.linkWhenNotTaken = false ∧
    (two 5 5).readReg 4 = (two 5 5).readReg 5 ∧ (two 5 6).readReg 4 ≠ (two 5 6).readReg 5 := by decide

/-- LoadsFromStorage and UnalignedLoads: just below the register file, at the top of memory, and at each alignment. -/
theorem witness_LoadsFromStorage :
    (isHwFile (addrOf (at4 0x1F801000) 4 0xFFFC) = false ∧ (addrOf (at4 0x1F801000) 4 0xFFFC).toNat % 4 = 0 ∧
      (at4 0x1F801000).lineageSkips 8 false = false) ∧
    (isHwFile (addrOf (at4 0) 4 0xFFFE) = false ∧ (addrOf (at4 0) 4 0xFFFE).toNat % 2 = 0) ∧
    (isHwFile (addrOf (at4 0x1F810000) 4 0) = false ∧ (at4 0x1F810000).lineageSkips 8 true = false) := by decide

theorem witness_StoresToStorage :
    vec.mem.wf = true ∧
    (isHwFile (addrOf (at4 0x1F800FFC) 4 0) = false ∧ (at4 0x1F800FFC).resolve (addrOf (at4 0x1F800FFC) 4 0) = some (.io, 0xFFC)) ∧
    ((at4 0xBFC7FFFC).resolve (addrOf (at4 0xBFC7FFFC) 4 0) = some (.rom, 0x7FFFC)) ∧
    ((at4 0x00800000).resolve (addrOf (at4 0x00800000) 4 0) = none ∧ addrOf (at4 0x00800000) 4 0 ≠ 0xFFFE0130) := by decide

theorem witness_UnalignedStores :
    vec.mem.wf = true ∧
    (isHwFile (addrOf (at4 0x1F800FFF) 4 0) = false ∧ (at4 0x1F800FFF).resolve (addrOf (at4 0x1F800FFF) 4 0) = some (.io, 0xFFF)) ∧
    ((at4 0xFFFE012F).resolve (addrOf (at4 0xFFFE012F) 4 0) = none ∧
      (addrOf (at4 0xFFFE012F) 4 0).toNat / 4 ≠ 0xFFFE0130 / 4) := by decide

/-- A load of x[8] in the slot of a jump to `addiu $t0, $t0, 1`, under policy lineage (44_branch_jump.md R199). -/
def skipping : State :=
  inSlot (.taken 0x80010040)
    ((vecWith { Params.specDefault with loadDelay := .lineage }).rawWrite 0x80010040 .word 0x25080001)

theorem witness_AccessesThroughTheBus :
    skipping.lineageSkips 8 false = true ∧ skipping.lineageSkips 8 true = true ∧ skipping.lineageSkips 9 false = false ∧
    skipping.lineageSkips 9 true = false ∧ (addrOf (at4 0x1F801C00) 4 2).toNat % 2 = 0 ∧
    (addrOf (at4 0x1F8010C8) 4 0).toNat % 4 = 0 := by decide

theorem witness_CacheControlStores : addrOf (at4 0xFFFE0000) 4 0x0130 = 0xFFFE0130 := by decide

theorem witness_UnalignedRoundTrip (a : Word) (h : a = 0x80200001 - 4 ∨ a = 0x1F800FFC) :
    (at4 a).mem.wf = true ∧ (9 : Reg) ≠ 0 ∧ (9 : Reg) ≠ 4 ∧ (at4 a).params.loadDelay ≠ .lineage ∧ isHwFile a = false ∧
      isHwFile (a + 3) = false ∧ ((at4 a).resolve a).isSome = true ∧ ((at4 a).resolve (a + 3)).isSome = true := by
  rcases h with rfl | rfl <;> decide

theorem witness_MisalignedStopsOrTraps :
    (refusing.params.loadDelay ≠ .lineage ∧ refusing.params.misaligned = .refuse ∧
      (addrOf refusing 4 0).toNat % 2 ≠ 0 ∧ (addrOf refusing 4 1).toNat % 4 ≠ 0) ∧
    ((trapping 0x80020001).params.misaligned = .addressError ∧ (trapping 0x80020001).params.firmware = .absent) ∧
    (vec.setPc 0x80010002).pc.toNat % 4 ≠ 0 ∧ vec.params.misaligned ≠ .addressError := by decide

theorem witness_MisalignedBytewise :
    ((bytewise 0x801FFFFD).resolve (addrOf (bytewise 0x801FFFFD) 4 0) = some (.ram, 0x1FFFFD) ∧
      (addrOf (bytewise 0x801FFFFD) 4 0).toNat % 2 ≠ 0 ∧ 0x1FFFFD + 2 ≤ Store.size .ram ∧
      (addrOf (bytewise 0x801FFFFD) 4 0).toNat % 4 ≠ 0 ∧ Store.size .ram < 0x1FFFFD + 4) ∧
    ((bytewise 0xBFC7FFFB).resolve (addrOf (bytewise 0xBFC7FFFB) 4 0) = some (.rom, 0x7FFFB) ∧
      0x7FFFB + 4 ≤ Store.size .rom) ∧
    ((bytewise 0x801FFFFF).resolve (addrOf (bytewise 0x801FFFFF) 4 0) = some (.ram, 0x1FFFFF) ∧
      Store.size .ram < 0x1FFFFF + 2) := by decide

/-- Just past the mapped RAM mirrors, at each alignment, and at the top of the address space. -/
theorem witness_MisalignedBytewise_unmapped :
    ((bytewise 0x00800001).params.misaligned = .bytewise ∧ (bytewise 0x00800001).lineageSkips 8 false = false ∧
      (bytewise 0x00800001).resolve (addrOf (bytewise 0x00800001) 4 0) = none ∧
      (addrOf (bytewise 0x00800001) 4 0).toNat % 2 ≠ 0 ∧ (addrOf (bytewise 0x00800001) 4 1).toNat % 4 ≠ 0) ∧
    ((bytewise 0).resolve (addrOf (bytewise 0) 4 0xFFFF) = none ∧ (addrOf (bytewise 0) 4 0xFFFF).toNat % 2 ≠ 0) := by decide

theorem witness_PageMap : resolveAt false (BitVec.ofNat 32 (0xA0000000 + 3 * 0x200000 + 0x1FFFFF)) = some (.ram, 0x1FFFFF) ∧
    (3 : Nat) < 4 ∧ 0x1FFFFF < 0x200000 := by decide

theorem witness_StorageRoundTrip :
    vec.mem.wf = true ∧ (0x80020000 : Word).toNat % 4 = 0 ∧ (0xA0620000 : Word).toNat % 4 = 0 ∧
    isHwFile 0x80020000 = false ∧ isHwFile 0xA0620000 = false ∧ (vec.resolve 0x80020000).isSome = true ∧
    vec.resolve 0xA0620000 = vec.resolve 0x80020000 := by decide

theorem witness_TrapInstructions :
    ((inSlot .notTaken vec).params.bdOnNotTaken = true ∧ (inSlot .notTaken vec).inDelaySlot = true ∧
      (inSlot (.taken 0) vec).ctx.consumed ≠ .notTaken ∧ (inSlot (.taken 0) vec).inDelaySlot = true ∧
      vec.ctx.consumed ≠ .notTaken ∧ vec.inDelaySlot = false) ∧
    vec.params.firmware = .absent ∧ vec.params.breakTraps = true ∧
    (vecWith { Params.specDefault with breakTraps := false }).params.breakTraps = false := by decide

theorem witness_TrapsTheSpecLeavesOpen :
    ((ovf 0x7FFFFFFF 1).params.overflowTraps = true ∧ (ovf 0x7FFFFFFF 1).params.firmware = .absent ∧
      ((ovf 0x7FFFFFFF 1).readReg 4).toInt + (1 : Half).toInt = 2 ^ 31 ∧
      ((ovf 0x7FFFFFFF 1).readReg 4).toInt + ((ovf 0x7FFFFFFF 1).readReg 5).toInt = 2 ^ 31 ∧
      ((ovf 0x80000000 1).readReg 4).toInt - ((ovf 0x80000000 1).readReg 5).toInt = -2 ^ 31 - 1) ∧
    (let s := inSlot .notTaken (vecWith { Params.specDefault with bdOnNotTaken := false })
     s.ctx.consumed = .notTaken ∧ s.params.bdOnNotTaken = false ∧ s.params.breakTraps = true) := by decide

/-- An instruction that completes without an exception, one that traps with no firmware agent, and two Status values that differ in
the mode and coprocessor-usable bits alone. -/
theorem witness_PrivilegeNotEnforced :
    (∃ t, exec (.mtc0 8 12) vec = .next t ∧ t.ctx.trapped = false) ∧
    (∃ t, exec (.syscall 0) vec = .next t ∧ t.ctx.trapped = true) ∧ vec.params.firmware = .absent ∧
    (let user := vec.writeCop0 12 0x00600002
     (user.readCop0 12).getLsbD 22 = (vec.readCop0 12).getLsbD 22 ∧ user.readCop0 14 = vec.readCop0 14 ∧
       (user.readCop0 12).getLsbD 6 = (vec.readCop0 12).getLsbD 6 ∧ user.readCop0 12 ≠ vec.readCop0 12) ∧
    exec (.j 0) (inSlot .notTaken vec) = .refused .transferInDelaySlot ∧
    (skipping.params.loadDelay = .lineage ∧ ∀ k, k = 0 ∨ k = 10 →
      ((skipping.writeCop0 12 0x10600002).readCop0 12).getLsbD k = (skipping.readCop0 12).getLsbD k) :=
  ⟨⟨_, rfl, by decide⟩, ⟨_, rfl, by decide⟩, by decide, by decide, rfl, by decide, by
    rintro k (rfl | rfl) <;> decide⟩

theorem witness_FirmwareSystemCall :
    hle.params.firmware = .hle ∧ (hle.writeReg 4 1).readReg 4 = 1 ∧ (hle.writeReg 4 2).readReg 4 = 2 ∧
    (hle.readReg 4 ≠ 1 ∧ hle.readReg 4 ≠ 2) := by decide

/-- `lw $t0, 0($a0)` in the slot of a jump to `addiu $t0, $t0, 1`, with enabled interrupts and I_STAT = `pending`. -/
def boundary (pending : Word) : State :=
  (((((vecWith { Params.specDefault with loadDelay := .lineage, misaligned := .addressError }).rawWrite 0x80010040 .word
    0x25080001).rawWrite 0x80020000 .word 0x55).writeReg 4 0x80020000).writeCop0 12 0x401
    |>.setIoWord iStatOff pending |>.setIoWord iMaskOff 0x10).setSlot (.taken 0x80010040)

/-- Without an interrupt at the block boundary the load is skipped (44_branch_jump.md R199); with one it has completed when the handler
runs, at the target's EPC, and leaves no hazard (70_reset_and_hazards.md R360); a misaligned one takes its address error. -/
theorem test_lineage_boundary :
    (run 0x8C880000 (boundary 0)).map (fun t => (t.readReg 8, t.pc, t.loadDelay)) = some (0, 0x80010040, none) ∧
    (run 0x8C880000 (boundary 0x10)).map (fun t => (t.readReg 8, t.pc, t.readCop0 14, t.loadDelay)) =
      some (0x55, 0x80000080, 0x80010040, none) ∧
    trap 0x8C880001 (boundary 0) = some (0x404, 0x80000010, 0x8000FFFC, 0x80000080) := by decide

/-- A target that reads and writes x[8], and the cases just beside it: another register, the LWR of a pair, a misaligned target, a
no-op, another policy, no transfer. -/
theorem witness_LineageSkipsLoads :
    (skipping.params.loadDelay = .lineage ∧ (0x80010040 : Word).toNat % 4 = 0 ∧
      skipping.catchUp.interruptCondition = false ∧ decode (skipping.catchUp.fetch 0x80010040) = .instr (.addiu 8 8 1) ∧ 8 ∈ regsRead skipping.params (.addiu 8 8 1) ∧
      regWritten (.addiu 8 8 1) = some 8) ∧
    (Instr.loads (.lw 4 8 0) = some (8, false) ∧ skipping.lineageSkips 8 false = true ∧
      Instr.loads (.lwl 4 8 0) = some (8, true) ∧ skipping.lineageSkips 8 true = true) ∧
    (skipping.lineageSkips 9 false = false ∧ (∃ t, exec (.lw 4 9 0) skipping = .next t ∧ t.ctx.trapped = false)) ∧
    (skipping.rawWrite 0x80010040 .word 0x98880000).lineageSkips 8 true = false ∧
    (skipping.rawWrite 0x80010040 .word 0x98880000).lineageSkips 8 false = true ∧
    (inSlot (.taken 0x80010042) skipping).lineageSkips 8 false = false ∧
    (skipping.rawWrite 0x80010040 .word 0xFFFFFFFF).lineageSkips 8 false = false ∧
    (inSlot .notTaken skipping).lineageSkips 8 false = false ∧ (inSlot (.taken 0x80010040) vec).lineageSkips 8 false = false ∧
    ((Instr.lw 4 8 0).alignedAccess = some (.word, 4, 0) ∧ alignedFor .word (skipping.effAddr 4 0) = true) ∧
    (let s := (boundary 0x10).startStep 0
     s.slot = .none ∧ s.ctx.held = none ∧ s.params.firmware = .absent ∧ s.catchUp.interruptCondition = true ∧
       s.ctx.consumed = .taken 0x80010040 ∧ ∃ u, exec (.lw 4 8 0) s = .next u ∧ u.ctx.trapped = false) :=
  ⟨by decide, by decide, ⟨by decide, _, rfl, by decide⟩, by decide, by decide, by decide, by decide, by decide, by decide,
    by decide, by decide, by decide, by decide, by decide, by decide, _, rfl, by decide⟩

theorem witness_Cop0Moves : vec.lineageSkips 8 false = false ∧ skipping.lineageSkips 8 false = true := by decide

theorem witness_RfeRestoresStatus : vec.params.firmware = .absent := by decide

/-- A pending and enabled source, and none. -/
theorem witness_InterruptTaken :
    let s := ((vec.writeCop0 12 0x401).setIoWord iStatOff 0x10).setIoWord iMaskOff 0x10
    s.params.firmware = .absent ∧ s.catchUp.interruptCondition = true ∧ vec.catchUp.interruptCondition = false := by decide

theorem witness_InterruptAcknowledge : vec.mem.wf = true ∧ Width.half ≠ .byte ∧ Width.word ≠ .byte := by decide

theorem witness_SoundDma :
    let s := dma 0x00100000
    s.mem.wf = true ∧ (s.ioWord 0x10F0).getLsbD 19 = true ∧ (s.ioWord 0x10F4).getLsbD 20 = true ∧
    (0x01000201 : Word).getLsbD 24 = true ∧ (0x01000201 : Word).getLsbD 0 = true ∧
    (0x01000200 : Word).getLsbD 24 = true ∧ (0x01000200 : Word).getLsbD 0 = false ∧ (0x00000201 : Word).getLsbD 24 = false := by
  decide

/-- A block of 0x200040 bytes: byte 0x3F is met again, by byte 0x20003F; byte 0x40 is not. -/
theorem witness_SoundDma_long :
    (let bcr := ((dma 0).setIoWord d4BcrOff 0x00108001).ioWord 0x10C4
     4 * (bcr.toNat / 0x10000 * (bcr.toNat % 0x10000)) = 0x200040) ∧
    (8 + 0x20003F) % 0x200000 = (8 + 0x3F) % 0x200000 ∧
    ∀ k', 0x40 < k' → k' < 0x200040 → (8 + k') % 0x200000 ≠ (8 + 0x40) % 0x200000 :=
  ⟨by decide, by decide, fun k' h1 h2 => by omega⟩

theorem witness_HardwarePassThrough :
    vec.mem.wf = true ∧ ((0x1F801070 : Word).toNat % 2 = 0 ∧ ¬(0x1C00 ≤ 0x1F801070 - 0x1F800000)) ∧ isHwFile 0x1F801000 = true ∧ isHwFile 0x1F80FFFF = true ∧
    ((0x1F801102 : Word).toNat % 2 = 0 ∧ (0x1F801102 - 0x1F800000) % 4 ≠ 0) ∧
    ((0x1F801C00 : Word).toNat % 4 = 0 ∧ (0x1F801C00 - 0x1F800000) / 0x10 ≠ 0x110) ∧
    ((0x1F80110C : Word).toNat % 4 = 0 ∧ ¬(0x1F80110C - 0x1F800000) % 0x10 ≤ 8) := by decide

theorem witness_SpuWindow :
    (0x1F801C00 ≤ (0x1F801C00 : Word).toNat ∧ (0x1F801DFE : Word).toNat < 0x1F801E00 ∧ (0x1F801DFE : Word).toNat % 2 = 0) ∧
    vec.params.spu = .null ∧ State.reset.params.spu = .external := by decide

theorem witness_CounterRegisters : (0 : Fin 4) ≠ 3 ∧ (2 : Fin 4) ≠ 3 ∧ Width.half ≠ .byte ∧
    (0x1F801120 : Word).toNat = 0x1F801100 + 0x10 * (2 : Fin 4).val := by decide

/-- Armed for the target, armed for the overflow, stopped by bit 0, not armed, and the frame timer. -/
theorem witness_CounterDeadline :
    counterOk 0 ⟨0xFFFF, 0x10, 0xFFFF, 0, none, 1, 0x10⟩ ∧ counterOk 1 ⟨0, 0x120, 0, 0, none, 2154, 0x20⟩ ∧
    counterOk 2 ⟨0, 0x11, 0, 0, none, 1, 0x40⟩ ∧ counterOk 0 (Counter.atReset 0x10) ∧ counterOk 3 Counter.frameAtReset := by
  unfold counterOk
  decide

theorem witness_CounterCatchUp : let s := atCycle 564480 vec
    s.mem.wf = true ∧ (∀ i : Fin 4, counterOk i s.ctr[i]) ∧ counterDue s.cycle s.ctr[3] = true ∧
      counterDue s.cycle s.ctr[0] = false := by
  unfold counterOk
  decide

theorem witness_CounterScenario :
    vec.mem.wf = true ∧ (∀ i : Fin 4, counterOk i vec.ctr[i]) ∧ 99 < 100 ∧ 100 ≤ 100 ∧ vec.params.firmware = .absent := by
  unfold counterOk
  decide

theorem witness_StepKeepsInv : State.reset.Inv ∧ ∃ t, step State.reset = .next t :=
  ⟨⟨by decide, by decide, by decide, by unfold counterOk; decide, by decide, by decide⟩, _, rfl⟩

theorem witness_StepCyclesCounts : ∃ t, State.stepCycles 2 State.reset = .next t := ⟨_, rfl⟩

/-- runUntil: at once, after one step, a stop, and a bound that is used up. -/
theorem witness_HostCalls_runUntil :
    State.runUntil 0xBFC00000 0 State.reset = some (.next State.reset) ∧
    (∃ t, State.runUntil 0xBFC00004 1 State.reset = some (.next t) ∧ t.pc = 0xBFC00004) ∧
    State.runUntil 0 1 (placed 0x08000000 (vec.setSlot .notTaken)) = some (.refused .transferInDelaySlot) ∧
    State.runUntil 0 1 (vec.setPc 2) = some (.fault .unalignedFetch) ∧ State.runUntil 0 0 State.reset = none :=
  ⟨rfl, ⟨_, rfl, by decide⟩, rfl, rfl, rfl⟩

theorem witness_HostCalls : vec.mem.wf = true ∧ ([0xFF, 0xFF, 0x28, 0x21] : List Byte).length ≤ 0x80000 ∧
    ([0xFF, 0xFF, 0x28, 0x21] : List Byte)[3]? = some 0x21 ∧ (vec.resolve (0x80010000 + BitVec.ofNat 32 3)).isSome = true := by
  decide

end Sys2Proof.Tests
end

/-! ## Steps of a decoded instruction (00_scope.md R12, 70_reset_and_hazards.md R360)

The step as an equation around `exec`, where an instruction is fetched. -/

namespace Sys2Proof.Machine

/-- R12, R104: an aligned fetch whose word decodes to `i` runs `i`. -/
theorem fetchStage_of_instr {s : State} {i : Instr} (ha : wordAligned s.pc = true)
    (hd : decode (s.fetch s.pc) = .instr i) : s.fetchStage = .run i s.executing := by
  simp only [State.fetchStage, ha, hd, if_true, State.executing]

/-- R360: no policy acts where there is no hazard. -/
theorem loadStage_of_noHazard {s : State} {i : Instr} (hn : s.noHazard i) : s.loadStage i = .plain := by
  unfold State.loadStage
  split
  · rfl
  · next d hd => simp only [hn d hd, Bool.false_eq_true, if_false]

/-- The step of an instruction that no load before it touches: `exec`, then the end of the step. -/
theorem step_of_loadStage_plain {s : State} {i : Instr} (ha : wordAligned s.pc = true)
    (hd : decode (s.fetch s.pc) = .instr i) (hl : s.loadStage i = .plain) :
    step s = onNext State.endStep (exec i s.executing) := by
  simp only [step, State.stepWith, fetchStage_of_instr ha hd, hl]

/-- Settles O6: without a hazard the load stage is plain, and `onNext` passes the outcome of `exec` on. -/
theorem stepRunsDecodedInstruction : Obligations.StepRunsDecodedInstruction := by
  intro s i ha hd hn
  have hstep : step s = onNext State.endStep (exec i s.executing) :=
    step_of_loadStage_plain ha hd (loadStage_of_noHazard hn)
  refine ⟨fun u hu => ?next, fun r hr => ?refused, rfl⟩
  case next => rw [hstep, hu, onNext]
  case refused => rw [hstep, hr, onNext]

end Sys2Proof.Machine

/-! ## What every step keeps, and the state after reset (10_state.md)

The invariant is carried through a step by a weaker one that holds while the instruction executes; then the rules for pc and the
slot state, instruction by instruction, and the reset values. -/

namespace Sys2Proof.Machine

/-! ### The invariant inside a step -/

/-- What holds of the state while an instruction executes and after it, up to the end of the step: the invariant without the
idle variables, where a slot state is left only from outside a delay slot, so that no pending transfer moves pc away from the
aligned slot. -/
structure State.InvInStep (s : State) : Prop where
  bus         : BusOk s
  zeroReg     : s.gpr[0] = 0#32
  loadDelay   : ∀ d, s.loadDelay = some d → d.reg ≠ 0#5
  slotAligned : s.slot ≠ .none → s.inDelaySlot = false ∧ wordAligned s.pc = true

theorem wordAligned_add_four {a : Word} (h : wordAligned a = true) : wordAligned (a + 4) = true := by
  simp only [wordAligned, beq_iff_eq] at h ⊢
  bv_omega

/-- Outside a delay slot no transfer is pending (R181). -/
theorem completeTransfer_of_not_inDelaySlot {s : State} (h : s.inDelaySlot = false) : s.completeTransfer = s := by
  have hc : s.ctx.consumed = .none := by simpa [State.inDelaySlot] using h
  simp only [State.completeTransfer, hc, ite_self]

/-- R12: a step starts inside the invariant; the slot state is taken and the load record cleared. -/
theorem State.Inv.startStep {s : State} (h : s.Inv) (w : Word) : (s.startStep w).InvInStep where
  bus := ⟨h.memWf, h.counters⟩
  zeroReg := h.zeroReg
  loadDelay := by simp
  slotAligned := by simp

theorem State.InvInStep.holdBack {s : State} (h : s.InvInStep) (d : LoadDelay) : (s.holdBack d).InvInStep where
  bus := (holdBack_keeps s d).bus h.bus
  zeroReg := (holdBack_keeps s d).zero.trans h.zeroReg
  loadDelay := h.loadDelay
  slotAligned := h.slotAligned

/-- What `ExecOk` keeps: from an empty slot state, a slot that was left stands where pc was. -/
theorem State.InvInStep.of_execOk {s u : State} (h : s.InvInStep) (e : ExecOk s u) (hs : s.slot = .none)
    (ha : u.slot ≠ .none → wordAligned s.pc = true) : u.InvInStep where
  bus := e.keeps.bus h.bus
  zeroReg := e.keeps.zero.trans h.zeroReg
  loadDelay := e.loadDelay h.loadDelay
  slotAligned := fun hu => by
    obtain ⟨hd, hpc⟩ := e.slot hs hu
    have hud : u.inDelaySlot = s.inDelaySlot := by simp only [State.inDelaySlot, e.keeps.consumed]
    exact ⟨hud.trans hd, hpc ▸ ha hu⟩

theorem State.InvInStep.settleLoad {u : State} (h : u.InvInStep) (i : Instr) : (u.settleLoad i).InvInStep where
  bus := (settleLoad_keeps u i).bus h.bus
  zeroReg := (settleLoad_keeps u i).zero.trans h.zeroReg
  loadDelay := by rw [settleLoad_eq]; exact h.loadDelay
  slotAligned := by rw [settleLoad_eq]; exact h.slotAligned

/-- R12: the end of the step restores the invariant. -/
theorem State.InvInStep.endStep {u : State} (h : u.InvInStep) : u.endStep.Inv := by
  obtain ⟨-, hzero, hbus, hctx, hslot, hload, hpc⟩ := endStep_spec u
  exact {
    memWf := (hbus h.bus).memWf
    zeroReg := hzero.trans h.zeroReg
    idle := hctx
    counters := (hbus h.bus).counters
    loadDelay := fun d hd => by
      rcases hload with e | e
      · exact h.loadDelay d (e ▸ hd)
      · cases e ▸ hd
    slotAligned := fun hs => by
      have hu : u.slot ≠ .none := hslot ▸ hs
      obtain ⟨hout, hal⟩ := h.slotAligned hu
      rw [hpc hu, completeTransfer_of_not_inDelaySlot hout]
      exact hal }

/-- An instruction fetched from an aligned address keeps the invariant inside the step. -/
theorem State.InvInStep.of_exec {s u : State} {i : Instr} (h : s.InvInStep) (hs : s.slot = .none)
    (ha : wordAligned s.pc = true) (hu : exec i s = .next u) : u.InvInStep :=
  h.of_execOk (exec_fine i s u hu) hs fun _ => ha

/-- An address error leaves no slot state, so it keeps the invariant wherever pc stands: the misaligned fetch (log 3). -/
theorem State.InvInStep.raiseAddress {s : State} (h : s.InvInStep) (hs : s.slot = .none) (c : Cause) (a : Word) :
    (s.raiseAddress c a).InvInStep :=
  h.of_execOk (fine_raiseAddress s c a _ rfl) hs fun hne => absurd (raise_only _ _ _ _).1 hne

/-- Settles O56: by the four ways a step goes on, through the invariant inside the step. -/
theorem stepKeepsInv : Obligations.StepKeepsInv := by
  intro s t hinv hstep
  rcases step_cases hstep with ⟨-, -, rfl⟩ | ⟨-, -, rfl⟩ | ⟨ha, i, -, -, u, hu, rfl⟩ | ⟨ha, i, d, -, -, u, hu, rfl⟩
  case inl => exact ((hinv.startStep s.code).raiseAddress rfl .adEL s.pc).endStep
  case inr.inl => exact (hinv.startStep _).endStep
  case inr.inr.inl => exact ((hinv.startStep _).of_exec rfl (wordAligned_add_four ha) hu).endStep
  case inr.inr.inr =>
    exact ((((hinv.startStep _).holdBack d).of_exec rfl (wordAligned_add_four ha) hu).settleLoad i).endStep

/-! ### pc and the slot state while an instruction executes -/

/-- R24, R181: where the outcome is a next state without an exception, pc is that of `s`; a transfer has left a slot state, and
anything else the slot state of `s`. -/
def PcKept (s : State) (transfer : Bool) (o : Host.Outcome State Fault Refusal) : Prop :=
  ∀ u, o = .next u → u.ctx.trapped = false →
    u.pc = s.pc ∧ (transfer = false → u.slot = s.slot) ∧ (transfer = true → u.slot ≠ .none)

theorem PcKept.next {s t : State} (hp : t.pc = s.pc) (hs : t.slot = s.slot) : PcKept s false (.next t) := by
  rintro u ⟨⟩ -
  exact ⟨hp, fun _ => hs, nofun⟩

theorem PcKept.of_bus {s t : State} (h : BusOnly s t) : PcKept s false (.next t) := .next h.pc h.slot

theorem PcKept.refused {s : State} {b : Bool} (r : Refusal) : PcKept s b (.refused r) := fun _ e => by cases e

/-- Trap entry is an exception, whatever the firmware agent does. -/
theorem PcKept.trap {s t : State} {b : Bool} (c : Cause) (bd : Bool) (resume : Word) :
    PcKept s b (.next (t.raise c bd resume)) := by
  rintro u ⟨⟩ hu
  rw [(raise_only t c bd resume).2.2.1] at hu
  cases hu

theorem pcKept_resultOrOverflow (s : State) (rd : Reg) (v : Word) (ovf : Bool) :
    PcKept s false (s.resultOrOverflow rd v ovf) := by
  unfold State.resultOrOverflow
  split
  · exact .trap _ _ _
  · exact .next rfl rfl

theorem pcKept_div (s : State) (c : Prop) [Decidable c] (h l : Word) :
    PcKept s false (if c then .next s else .next (s.setHiLo h l)) := by
  split
  · exact .next rfl rfl
  · exact .next rfl rfl

theorem pcKept_transfer {s t : State} {d : Slot} (hp : t.pc = s.pc) (hd : d ≠ .none) : PcKept s true (t.transfer d) := by
  rcases transfer_cases t d with ⟨-, e⟩ | ⟨-, e⟩ <;> rw [e]
  · exact .refused _
  · rintro u ⟨⟩ -
    exact ⟨hp, nofun, fun _ => hd⟩

theorem branchSlot_ne_none (s : State) (c : Bool) (imm : Half) : s.branchSlot c imm ≠ .none := by
  cases c <;> nofun

theorem pcKept_branchIf (s : State) (c : Bool) (imm : Half) : PcKept s true (s.branchIf c imm) :=
  pcKept_transfer rfl (branchSlot_ne_none s c imm)

theorem pcKept_branchLinkIf (s : State) (c : Bool) (imm : Half) : PcKept s true (s.branchLinkIf c imm) := by
  unfold State.branchLinkIf
  split
  · exact pcKept_transfer rfl (branchSlot_ne_none s c imm)
  · exact pcKept_branchIf s c imm

theorem pcKept_loadInto (s : State) (base rt : Reg) (offset : Half) (w : Width) (ext : Word → Word) :
    PcKept s false (s.loadInto base rt offset w ext) := by
  unfold State.loadInto
  dsimp only
  split
  · exact .trap _ _ _
  · exact .next rfl rfl
  · exact .next (memRead_only _ _ _).pc (memRead_only _ _ _).slot
  · exact .next rfl rfl
  · exact .refused _

theorem pcKept_loadMerge (s : State) (base rt : Reg) (offset : Half) (merge : Nat → Word → Word → Word) :
    PcKept s false (s.loadMerge base rt offset merge) := by
  unfold State.loadMerge
  split
  · exact .next rfl rfl
  · exact .next (memRead_only _ _ _).pc (memRead_only _ _ _).slot

theorem pcKept_storeFrom (s : State) (base rt : Reg) (offset : Half) (w : Width) :
    PcKept s false (s.storeFrom base rt offset w) := by
  unfold State.storeFrom
  dsimp only
  split
  · exact .of_bus (memWrite_only _ _ _ _)
  · exact .trap _ _ _
  · exact .of_bus (rawWrite_only _ _ _ _)
  · exact .refused _

theorem pcKept_storeMerge (s : State) (base rt : Reg) (offset : Half) (merge : Nat → Word → Word → Word) :
    PcKept s false (s.storeMerge base rt offset merge) :=
  .of_bus ((memRead_only _ _ _).trans (memWrite_only _ _ _ _))

theorem pcKept_moveFromCop0 (s : State) (rt rd : Reg) : PcKept s false (s.moveFromCop0 rt rd) := by
  unfold State.moveFromCop0
  split
  · exact .next rfl rfl
  · exact .next rfl rfl

theorem pcKept_break (code : BitVec 20) (s : State) : PcKept s false (execBreak code s) := by
  unfold execBreak
  split
  · exact .trap _ _ _
  · exact .next rfl rfl

/-- Every instruction, by the shared operation it is made of. -/
theorem exec_pcKept (i : Instr) (s : State) : PcKept s i.isTransfer (exec i s) := by
  cases i with
  | addi | add | sub => exact pcKept_resultOrOverflow _ _ _ _
  | addiu | slti | sltiu | andi | ori | xori | lui | addu | subu | and | or | xor | nor | slt | sltu | sll | srl | sra | sllv
  | srlv | srav | mfhi | mflo | mult | multu | mthi | mtlo | mtc0 | ctc0 | rfe => exact .next rfl rfl
  | div | divu => exact pcKept_div _ _ _ _
  | j | jal | jr | jalr => exact pcKept_transfer rfl nofun
  | beq | bne | blez | bgtz | bltz | bgez => exact pcKept_branchIf _ _ _
  | bltzal | bgezal => exact pcKept_branchLinkIf _ _ _
  | lb base rt offset => exact pcKept_loadInto s base rt offset .byte fun v => sext8 (v.setWidth 8)
  | lbu base rt offset => exact pcKept_loadInto s base rt offset .byte fun v => (v.setWidth 8).setWidth 32
  | lh base rt offset => exact pcKept_loadInto s base rt offset .half fun v => sext16 (v.setWidth 16)
  | lhu base rt offset => exact pcKept_loadInto s base rt offset .half fun v => zext16 (v.setWidth 16)
  | lw base rt offset => exact pcKept_loadInto s base rt offset .word id
  | lwl | lwr => exact pcKept_loadMerge _ _ _ _ _
  | sb | sh | sw => exact pcKept_storeFrom _ _ _ _ _
  | swl | swr => exact pcKept_storeMerge _ _ _ _ _
  | syscall => exact .trap _ _ _
  | brk code => exact pcKept_break code s
  | mfc0 | cfc0 => exact pcKept_moveFromCop0 _ _ _

/-- Settles O12: what `exec_pcKept` says of each instruction. -/
theorem pcDuringExecution : Obligations.PcDuringExecution := fun i s => exec_pcKept i s

/-! ### Reset (R42) -/

theorem reset_readReg (r : Reg) : State.reset.readReg r = 0 := by
  simp [State.readReg, State.reset, State.resetWith]

/-- Status and PRId are the two Coprocessor-0 registers that reset does not clear. -/
theorem reset_readCop0 (r : Reg) :
    State.reset.readCop0 r = if r = 12 then 0x10600000 else if r = 15 then 0x00000002 else 0 := by
  have hset : State.reset =
      ({ State.reset with cop0 := Vector.replicate 32 0 }.writeCop0 statusReg resetStatus).writeCop0 pridReg resetPrid := rfl
  have hzero : ({ State.reset with cop0 := Vector.replicate 32 0 } : State).readCop0 r = 0 := by simp [State.readCop0]
  rw [hset, readCop0_writeCop0, readCop0_writeCop0, hzero]
  by_cases h12 : r = statusReg
  · subst h12; rfl
  · rw [if_neg h12]
    exact (if_neg h12).symm

theorem reset_byte (st : Store) (off : Nat) : State.reset.mem.byte st off = 0 := by
  cases st <;> rfl

theorem reset_counterOk (i : Fin 4) : counterOk i State.reset.ctr[i] := by
  revert i
  unfold counterOk
  decide

/-- Settles O54: the register files and the stores by their lemmas, the single fields by evaluation. -/
theorem resetValues : Obligations.ResetValues :=
  ⟨reset_readReg, rfl, rfl, rfl, rfl, rfl, rfl, reset_readCop0, reset_byte, rfl, rfl, rfl, rfl, rfl⟩

/-- Settles O55: no slot state and no load record is left by reset, and every counter record is legal. -/
theorem invAtReset : Obligations.InvAtReset where
  memWf := reset_mem_wf
  zeroReg := rfl
  idle := rfl
  counters := reset_counterOk
  loadDelay := nofun
  slotAligned := fun h => absurd rfl h

end Sys2Proof.Machine

/-! ## The address map and plain storage (20_memory.md)

Where an address resolves, what the bytes of one aligned word have in common, and what a read gives after a write. -/

namespace Sys2Proof.Machine

/-! ### The page table as address ranges (R62) -/

/-- The pages of the RAM aliases, as address ranges. -/
theorem isRamPage_pageOf (a : Word) :
    isRamPage (pageOf a) = true ↔
      a.toNat < 0x800000 ∨ (0x80000000 ≤ a.toNat ∧ a.toNat < 0x80800000) ∨
        (0xA0000000 ≤ a.toNat ∧ a.toNat < 0xA0800000) := by
  simp only [isRamPage, Bool.or_eq_true, Bool.and_eq_true, decide_eq_true_eq]
  unfold pageOf
  omega

theorem pageOf_eq_parPage (a : Word) : pageOf a = parPage ↔ 0x1F000000 ≤ a.toNat ∧ a.toNat < 0x1F010000 := by
  unfold pageOf parPage
  omega

theorem pageOf_eq_ioPage (a : Word) : pageOf a = ioPage ↔ 0x1F800000 ≤ a.toNat ∧ a.toNat < 0x1F810000 := by
  unfold pageOf ioPage
  omega

theorem pageOf_romPages (a : Word) :
    romPage ≤ pageOf a ∧ pageOf a < romPage + 8 ↔ 0xBFC00000 ≤ a.toNat ∧ a.toNat < 0xBFC80000 := by
  unfold pageOf romPage
  omega

/-- The page table's answer, range by range; the offset in the store is then arithmetic on the page and the offset in it. -/
theorem resolveAt_eq (isolated : Bool) (a : Word) :
    resolveAt isolated a =
      if a.toNat < 0x800000 ∨ (0x80000000 ≤ a.toNat ∧ a.toNat < 0x80800000) ∨
          (0xA0000000 ≤ a.toNat ∧ a.toNat < 0xA0800000) then
        (if isolated then none else some (.ram, a.toNat % 0x200000))
      else if 0x1F000000 ≤ a.toNat ∧ a.toNat < 0x1F010000 then some (.par, a.toNat - 0x1F000000)
      else if 0x1F800000 ≤ a.toNat ∧ a.toNat < 0x1F810000 then some (.io, a.toNat - 0x1F800000)
      else if 0xBFC00000 ≤ a.toNat ∧ a.toNat < 0xBFC80000 then some (.rom, a.toNat - 0xBFC00000)
      else none := by
  simp only [resolveAt, lut, isRamPage_pageOf, pageOf_eq_parPage, pageOf_eq_ioPage, pageOf_romPages]
  split_ifs with hram hiso hpar hio hrom
  case pos => rfl
  case neg =>
    have hoff : pageOf a % 0x20 * 0x10000 + pageOffset a = a.toNat % 0x200000 := by unfold pageOf pageOffset; omega
    simp only [hoff]
  case pos =>
    have hoff : 0 + pageOffset a = a.toNat - 0x1F000000 := by unfold pageOffset; omega
    simp only [hoff]
  case pos =>
    have hoff : 0 + pageOffset a = a.toNat - 0x1F800000 := by unfold pageOffset; omega
    simp only [hoff]
  case pos =>
    have hoff : (pageOf a - romPage) * 0x10000 + pageOffset a = a.toNat - 0xBFC00000 := by
      unfold pageOf pageOffset romPage; omega
    simp only [hoff]
  case neg => rfl

/-- R63: the twelve aliases lie in the RAM ranges, 2MB apart. -/
theorem resolveAt_ram_alias {base j k : Nat} (hb : base = 0 ∨ base = 0x80000000 ∨ base = 0xA0000000) (hj : j < 4)
    (hk : k < 0x200000) : resolveAt false (BitVec.ofNat 32 (base + j * 0x200000 + k)) = some (.ram, k) := by
  have hn : (BitVec.ofNat 32 (base + j * 0x200000 + k)).toNat = base + j * 0x200000 + k := by
    rw [BitVec.toNat_ofNat]
    omega
  have hoff : (base + j * 0x200000 + k) % 0x200000 = k := by omega
  rw [resolveAt_eq, hn, hoff, if_pos (by omega)]
  rfl

/-- Settles O38: the page table as ranges, and the aliases in them. -/
theorem pageMap : Obligations.PageMap :=
  ⟨resolveAt_eq, fun _ _ _ hb hj hk => resolveAt_ram_alias hb hj hk⟩

/-! ### Within one aligned word -/

section AlignedWord

variable {a : Word} {j : Nat}

/-- The bytes of an aligned word lie in one page, one after the other. -/
theorem pageOf_add (ha : a.toNat % 4 = 0) (hj : j < 4) : pageOf (a + BitVec.ofNat 32 j) = pageOf a := by
  have := a.isLt
  simp only [pageOf, BitVec.toNat_add, BitVec.toNat_ofNat]
  omega

theorem pageOffset_add (ha : a.toNat % 4 = 0) (hj : j < 4) :
    pageOffset (a + BitVec.ofNat 32 j) = pageOffset a + j := by
  have := a.isLt
  simp only [pageOffset, BitVec.toNat_add, BitVec.toNat_ofNat]
  omega

/-- The fast limit is a multiple of four, so an aligned word lies on one side of it (R66). -/
theorem isHwFile_add (ha : a.toNat % 4 = 0) (hj : j < 4) : isHwFile (a + BitVec.ofNat 32 j) = isHwFile a := by
  have hlimit : fastLimit ≤ pageOffset a + j ↔ fastLimit ≤ pageOffset a := by unfold fastLimit pageOffset; omega
  simp only [isHwFile, pageOf_add ha hj, pageOffset_add ha hj, hlimit]

theorem resolve_add {s : State} {st : Store} {off : Nat} (ha : a.toNat % 4 = 0) (hj : j < 4)
    (hr : s.resolve a = some (st, off)) : s.resolve (a + BitVec.ofNat 32 j) = some (st, off + j) := by
  unfold State.resolve resolveAt at hr ⊢
  rw [pageOf_add ha hj, pageOffset_add ha hj]
  cases hl : lut s.cacheIsolated (pageOf a) with
  | none => rw [hl] at hr; cases hr
  | some e => rw [hl] at hr; cases hr; simp only [Nat.add_assoc]

/-- Every store's size is a multiple of four, so an aligned word that starts in a store ends in it. -/
theorem resolve_word_fits {s : State} {st : Store} {off : Nat} (ha : a.toNat % 4 = 0)
    (hr : s.resolve a = some (st, off)) : off + 4 ≤ st.size := by
  unfold State.resolve at hr
  rw [resolveAt_eq] at hr
  split_ifs at hr <;> cases hr <;> simp only [Store.size] <;> omega

end AlignedWord

/-! ### Reads of storage -/

theorem rawRead_of_resolve {s : State} {a : Word} {st : Store} {off : Nat} (hr : s.resolve a = some (st, off))
    (w : Width) : s.rawRead a w = s.mem.load st off w := by
  simp only [State.rawRead, hr]

/-- R65: an unmapped address reads 0. -/
theorem rawRead_unmapped {s : State} {a : Word} (hr : s.resolve a = none) (w : Width) : s.rawRead a w = 0 := by
  simp only [State.rawRead, hr]

/-- R70 to R72 in plain storage. -/
theorem memRead_of_resolve {s : State} {a : Word} {st : Store} {off : Nat} (hp : isHwFile a = false)
    (hr : s.resolve a = some (st, off)) (w : Width) : s.memRead a w = (s.mem.load st off w, s) := by
  rw [memRead_plain s a w hp, rawRead_of_resolve hr]

/-- Two neighbouring bytes of a word are the halfword at the lower one (R76). -/
theorem half_of_bytes (v : Word) (k : Nat) : byteOfWord v (k + 1) ++ byteOfWord v k = v.extractLsb' (8 * k) 16 := by
  unfold byteOfWord
  ext i hi
  simp only [BitVec.getElem_append, BitVec.getElem_extractLsb']
  split_ifs
  · rfl
  · congr 1; omega

/-- R95: the bytes of a word that has been stored inside a store. -/
theorem Memory.byte_store_word {m : Memory} (h : m.wf = true) {st : Store} {off : Nat} (hs : off + 4 ≤ st.size) (v : Word)
    {j : Nat} (hj : j < 4) : (m.store st off .word v).byte st (off + j) = byteOfWord v j := by
  rw [Memory.byte_store h st st off (off + j) .word v hs]
  simp only [widthBytes, hj, Nat.le_add_right, Nat.add_lt_add_iff_left, Nat.add_sub_cancel_left, true_and, if_true]

/-- Settles O39: the second address resolves to the offset of the store, so every read is of the four bytes just written. -/
theorem storageRoundTrip : Obligations.StorageRoundTrip := by
  intro s a b v hwf ha hb hpa hpb hmapped halias t
  obtain ⟨⟨st, off⟩, hra⟩ := Option.isSome_iff_exists.mp hmapped
  have hs : off + 4 ≤ st.size := resolve_word_fits ha hra
  have ht : t = s.setMem (s.mem.store st off .word v) := memWrite_plain s a .word v hpa st off hra
  have hrb : t.resolve b = some (st, off) := by rw [ht, setMem_resolve, halias, hra]
  have hbyte (j : Nat) (hj : j < 4) : t.mem.byte st (off + j) = byteOfWord v j := by
    rw [ht, setMem_mem, Memory.byte_store_word hwf hs v hj]
  have hread (j : Nat) (hj : j < 4) (w : Width) :
      t.memRead (b + BitVec.ofNat 32 j) w = (t.mem.load st (off + j) w, t) :=
    memRead_of_resolve ((isHwFile_add hb hj).trans hpb) (resolve_add hb hj hrb) w
  have hword : t.mem.load st off .word = v := by
    have h0 : t.mem.byte st off = byteOfWord v 0 := hbyte 0 (by omega)
    simp only [Memory.load, Memory.word, h0, hbyte 1, hbyte 2, hbyte 3, Nat.reduceLT, word_of_bytes]
  have hhalf (k : Nat) (hk : k + 1 < 4) : t.mem.half st (off + k) = v.extractLsb' (8 * k) 16 := by
    rw [Memory.half, Nat.add_assoc, hbyte (k + 1) hk, hbyte k (by omega), half_of_bytes]
  refine ⟨?word, ?fetch, fun j hj => ?byte, ?low, ?high⟩
  case word => rw [memRead_of_resolve hpb hrb, hword]
  case fetch => rw [State.fetch, rawRead_of_resolve hrb, hword]
  case byte => rw [hread j hj, Memory.load, hbyte j hj]
  case low =>
    rw [memRead_of_resolve hpb hrb, Memory.load]
    exact congrArg (fun h : Half => (h.setWidth 32, t)) (hhalf 0 (by omega))
  case high =>
    have hhigh := hread 2 (by omega) .half
    rwa [Memory.load, hhalf 2 (by omega)] at hhigh

end Sys2Proof.Machine

/-! ## Misaligned accesses and the cache-control address (20_memory.md R77, R85)

How an access goes ahead under each policy, what a load or a store then does, once for every width, and the step of a misaligned
fetch. -/

namespace Sys2Proof.Machine

/-! ### How an access goes ahead (R77) -/

section AccessKind

variable {s : State} {a : Word} {w : Width}

theorem accessKind_aligned (ha : a.toNat % widthBytes w = 0) : s.accessKind a w = .aligned := by
  simp only [State.accessKind, alignedFor, ha, beq_self_eq_true, if_true]

theorem accessKind_refuse (ha : a.toNat % widthBytes w ≠ 0) (hp : s.params.misaligned = .refuse) :
    s.accessKind a w = .stop .misalignedAccess := by
  simp only [State.accessKind, alignedFor, beq_iff_eq, ha, if_false, hp]

theorem accessKind_addressError (ha : a.toNat % widthBytes w ≠ 0) (hp : s.params.misaligned = .addressError) :
    s.accessKind a w = .addressError := by
  simp only [State.accessKind, alignedFor, beq_iff_eq, ha, if_false, hp]

theorem accessKind_bytewise (ha : a.toNat % widthBytes w ≠ 0) (hp : s.params.misaligned = .bytewise) :
    s.accessKind a w = if s.fitsStore a w then .bytewise else .stop .accessPastStore := by
  simp only [State.accessKind, alignedFor, beq_iff_eq, ha, if_false, hp]

theorem fitsStore_unmapped (hr : s.resolve a = none) : s.fitsStore a w = true := by
  simp only [State.fitsStore, hr]

theorem fitsStore_iff {st : Store} {off : Nat} (hr : s.resolve a = some (st, off)) :
    s.fitsStore a w = true ↔ off + widthBytes w ≤ st.size := by
  simp only [State.fitsStore, hr, decide_eq_true_eq]

end AccessKind

/-! ### Loads and stores by the kind of their access -/

section LoadStore

variable {s : State} {base rt : Reg} {offset : Half} {a : Word} {w : Width} {ext : Word → Word}

/-- A load that takes an address error is not skipped (log 10). -/
theorem loadInto_addressError (ha : s.effAddr base offset = a) (hk : s.accessKind a w = .addressError) :
    s.loadInto base rt offset w ext = .next (s.raiseAddress .adEL a) := by
  simp only [State.loadInto, ha, hk]

theorem loadInto_bytewise (ha : s.effAddr base offset = a) (hk : s.accessKind a w = .bytewise)
    (hn : s.lineageSkips rt false = false) :
    s.loadInto base rt offset w ext = .next (s.finishLoad rt (ext (s.rawRead a w)) false) := by
  simp only [State.loadInto, ha, hk, hn]

theorem loadInto_stop {r : Refusal} (ha : s.effAddr base offset = a) (hk : s.accessKind a w = .stop r)
    (hn : s.lineageSkips rt false = false) : s.loadInto base rt offset w ext = .refused r := by
  simp only [State.loadInto, ha, hk, hn]

theorem storeFrom_aligned (ha : s.effAddr base offset = a) (hk : s.accessKind a w = .aligned) :
    s.storeFrom base rt offset w = .next (s.memWrite a w (s.readReg rt)) := by
  simp only [State.storeFrom, ha, hk]

theorem storeFrom_addressError (ha : s.effAddr base offset = a) (hk : s.accessKind a w = .addressError) :
    s.storeFrom base rt offset w = .next (s.raiseAddress .adES a) := by
  simp only [State.storeFrom, ha, hk]

theorem storeFrom_bytewise (ha : s.effAddr base offset = a) (hk : s.accessKind a w = .bytewise) :
    s.storeFrom base rt offset w = .next (s.rawWrite a w (s.readReg rt)) := by
  simp only [State.storeFrom, ha, hk]

theorem storeFrom_stop {r : Refusal} (ha : s.effAddr base offset = a) (hk : s.accessKind a w = .stop r) :
    s.storeFrom base rt offset w = .refused r := by
  simp only [State.storeFrom, ha, hk]

end LoadStore

/-! ### The instructions that ask for alignment, by their shared operation (R214 to R216, R222, R223) -/

theorem exec_lh (base rt : Reg) (offset : Half) (s : State) :
    exec (.lh base rt offset) s = s.loadInto base rt offset .half fun v => sext16 (v.setWidth 16) := rfl

theorem exec_lhu (base rt : Reg) (offset : Half) (s : State) :
    exec (.lhu base rt offset) s = s.loadInto base rt offset .half fun v => zext16 (v.setWidth 16) := rfl

theorem exec_lw (base rt : Reg) (offset : Half) (s : State) :
    exec (.lw base rt offset) s = s.loadInto base rt offset .word id := rfl

theorem exec_sb (base rt : Reg) (offset : Half) (s : State) :
    exec (.sb base rt offset) s = s.storeFrom base rt offset .byte := rfl

theorem exec_sh (base rt : Reg) (offset : Half) (s : State) :
    exec (.sh base rt offset) s = s.storeFrom base rt offset .half := rfl

theorem exec_sw (base rt : Reg) (offset : Half) (s : State) :
    exec (.sw base rt offset) s = s.storeFrom base rt offset .word := rfl

/-! ### Policies refuse and address-error -/

/-- R252, R262: an address error with no firmware agent is a trap entry on the state that has the address in c0[8]. -/
theorem trapEntered_raiseAddress (s : State) (c : Cause) (a : Word) (h : s.params.firmware = .absent) :
    TrapEntered (s.writeCop0 8 a) (s.raiseAddress c a) (excCode c).toNat (c == .interrupt) s.bdFlag s.ia :=
  trapEntered_raise (s.writeCop0 8 a) c s.bdFlag s.ia h

/-- The executing instruction was fetched at the pc before the step (R24). -/
@[simp] theorem startStep_ia (s : State) (w : Word) : (s.startStep w).ia = s.pc := by
  simp only [State.ia, startStep_pc, BitVec.add_sub_cancel]

section MisalignedFetch

variable {s : State}

theorem wordAligned_eq_false {a : Word} (ha : a.toNat % 4 ≠ 0) : wordAligned a = false := beq_eq_false_iff_ne.mpr ha

/-- R25: a misaligned fetch has no meaning under the other two policies. -/
theorem step_misaligned_pc_fault (ha : s.pc.toNat % 4 ≠ 0) (hp : s.params.misaligned ≠ .addressError) :
    step s = .fault .unalignedFetch := by
  have hfetch : s.fetchStage = .stop .unalignedFetch := by
    rcases fetchStage_cases s with ⟨h, -⟩ | ⟨h, -⟩ | ⟨-, h, -⟩ | ⟨-, -, h⟩
    · cases (wordAligned_eq_false ha).symm.trans h
    · cases (wordAligned_eq_false ha).symm.trans h
    · exact absurd h hp
    · exact h
  simp only [step, State.stepWith, hfetch]

/-- R77, R265: under policy address-error it takes AdEL before anything is decoded (log 3). -/
theorem step_misaligned_pc_trap (ha : s.pc.toNat % 4 ≠ 0) (hp : s.params.misaligned = .addressError) :
    step s = .next ((s.startStep s.code).raiseAddress .adEL s.pc).endStep := by
  have hfetch : s.fetchStage = .trap ((s.startStep s.code).raiseAddress .adEL s.pc) := by
    simp only [State.fetchStage, wordAligned_eq_false ha, hp, Bool.false_eq_true, if_false]
  simp only [step, State.stepWith, hfetch]

end MisalignedFetch

/-- Settles O36: the policy fixes the kind of the access, the kind what the shared load or store does. -/
theorem misalignedStopsOrTraps : Obligations.MisalignedStopsOrTraps := by
  refine ⟨?access, fun s hpc => ⟨step_misaligned_pc_fault hpc, ?fetch⟩⟩
  case access =>
    intro base rt offset s a traps
    have ha : s.effAddr base offset = a := effAddr_eq s base offset
    simp only [exec_lh, exec_lhu, exec_lw, exec_sh, exec_sw]
    refine ⟨fun hp => ?refuse, fun hp => ?addressError⟩
    case refuse =>
      have store (w : Width) (h : a.toNat % widthBytes w ≠ 0) :
          s.storeFrom base rt offset w = .refused .misalignedAccess := storeFrom_stop ha (accessKind_refuse h hp)
      refine ⟨store .half, store .word, fun hn => ?_⟩
      have load (w : Width) (ext : Word → Word) (h : a.toNat % widthBytes w ≠ 0) :
          s.loadInto base rt offset w ext = .refused .misalignedAccess := loadInto_stop ha (accessKind_refuse h hp) hn
      exact ⟨fun h => ⟨load .half _ h, load .half _ h⟩, load .word _⟩
    case addressError =>
      have load (w : Width) (ext : Word → Word) (h : a.toNat % widthBytes w ≠ 0) :
          ∃ t, s.loadInto base rt offset w ext = .next t ∧ traps t .adEL 4 :=
        ⟨_, loadInto_addressError ha (accessKind_addressError h hp), rfl, trapEntered_raiseAddress s .adEL a⟩
      have store (w : Width) (h : a.toNat % widthBytes w ≠ 0) :
          ∃ t, s.storeFrom base rt offset w = .next t ∧ traps t .adES 5 :=
        ⟨_, storeFrom_addressError ha (accessKind_addressError h hp), rfl, trapEntered_raiseAddress s .adES a⟩
      exact ⟨fun h => ⟨load .half _ h, load .half _ h, store .half h⟩, fun h => ⟨load .word _ h, store .word h⟩⟩
  case fetch =>
    intro hp u
    have hia : u.ia = s.pc := startStep_ia s s.code
    have htrap := trapEntered_raiseAddress u .adEL s.pc
    rw [hia] at htrap
    refine ⟨_, step_misaligned_pc_trap hpc hp, ?_, htrap⟩
    rw [← hia]
    rfl

/-! ### Policy bytewise -/

theorem rawWrite_of_resolve {s : State} {a : Word} {st : Store} {off : Nat} (hr : s.resolve a = some (st, off))
    (w : Width) (v : Word) : s.rawWrite a w v = s.setMem (s.mem.store st off w v) := by
  simp only [State.rawWrite, hr]

/-- R65: a write to an unmapped address is dropped. -/
theorem rawWrite_unmapped {s : State} {a : Word} (hr : s.resolve a = none) (w : Width) (v : Word) :
    s.rawWrite a w v = s := by
  simp only [State.rawWrite, hr]

theorem setWidth_load_half (m : Memory) (st : Store) (off : Nat) :
    (m.load st off .half).setWidth 16 = m.byte st (off + 1) ++ m.byte st off := by
  simp [Memory.load, Memory.half]

section Bytewise

variable {s : State} {base rt : Reg} {offset : Half} {a : Word} {w : Width}
  (ha : s.effAddr base offset = a) (hal : a.toNat % widthBytes w ≠ 0) (hp : s.params.misaligned = .bytewise)

include ha hal hp

/-- A misaligned load is of the raw bytes, when they all lie in the store. -/
theorem loadInto_misaligned_bytewise (ext : Word → Word) (hn : s.lineageSkips rt false = false)
    (hf : s.fitsStore a w = true) :
    ∃ t, s.loadInto base rt offset w ext = .next t ∧ OnlyLoad s t rt (ext (s.rawRead a w)) false s.spuCalls :=
  have hk : s.accessKind a w = .bytewise := (accessKind_bytewise hal hp).trans (if_pos hf)
  ⟨_, loadInto_bytewise ha hk hn, onlyLoad_finishLoad s rt _ false⟩

theorem storeFrom_misaligned_bytewise (hf : s.fitsStore a w = true) :
    s.storeFrom base rt offset w = .next (s.rawWrite a w (s.readReg rt)) :=
  storeFrom_bytewise ha ((accessKind_bytewise hal hp).trans (if_pos hf))

theorem loadInto_misaligned_past (ext : Word → Word) (hn : s.lineageSkips rt false = false)
    (hf : ¬ s.fitsStore a w = true) : s.loadInto base rt offset w ext = .refused .accessPastStore :=
  loadInto_stop ha ((accessKind_bytewise hal hp).trans (if_neg hf)) hn

theorem storeFrom_misaligned_past (hf : ¬ s.fitsStore a w = true) :
    s.storeFrom base rt offset w = .refused .accessPastStore :=
  storeFrom_stop ha ((accessKind_bytewise hal hp).trans (if_neg hf))

end Bytewise

/-- Settles O37: an unmapped address, then a mapped one with the bytes inside the store or past its end. -/
theorem misalignedBytewise : Obligations.MisalignedBytewise := by
  intro base rt offset s a hp hn
  have ha : s.effAddr base offset = a := effAddr_eq s base offset
  simp only [exec_lh, exec_lhu, exec_lw, exec_sh, exec_sw]
  refine ⟨fun hr => ?unmapped, fun st off hwf hr => ?mapped⟩
  case unmapped =>
    have load (w : Width) (ext : Word → Word) (hz : ext 0 = 0) (h : a.toNat % widthBytes w ≠ 0) :
        ∃ t, s.loadInto base rt offset w ext = .next t ∧ OnlyLoad s t rt 0 false s.spuCalls := by
      have hload := loadInto_misaligned_bytewise ha h hp ext hn (fitsStore_unmapped hr)
      rwa [rawRead_unmapped hr, hz] at hload
    have store (w : Width) (h : a.toNat % widthBytes w ≠ 0) : s.storeFrom base rt offset w = .next s := by
      rw [storeFrom_misaligned_bytewise ha h hp (fitsStore_unmapped hr), rawWrite_unmapped hr]
    exact ⟨fun h => ⟨load .half _ rfl h, load .half _ rfl h, store .half h⟩,
      fun h => ⟨load .word _ rfl h, store .word h⟩⟩
  case mapped =>
    have load (w : Width) (ext : Word → Word) (h : a.toNat % widthBytes w ≠ 0) (hs : off + widthBytes w ≤ st.size) :
        ∃ t, s.loadInto base rt offset w ext = .next t ∧
          OnlyLoad s t rt (ext (s.mem.load st off w)) false s.spuCalls := by
      have hload := loadInto_misaligned_bytewise ha h hp ext hn ((fitsStore_iff hr).mpr hs)
      rwa [rawRead_of_resolve hr] at hload
    have store (w : Width) (h : a.toNat % widthBytes w ≠ 0) (hs : off + widthBytes w ≤ st.size) :
        ∃ t, s.storeFrom base rt offset w = .next t ∧
          OnlyBytes s t st off (widthBytes w) (byteOfWord (s.readReg rt)) := by
      refine ⟨_, storeFrom_misaligned_bytewise ha h hp ((fitsStore_iff hr).mpr hs), ?_⟩
      rw [rawWrite_of_resolve hr]
      exact onlyBytes_store s hwf st off w (s.readReg rt) hs
    have past (w : Width) (hs : st.size < off + widthBytes w) : ¬ s.fitsStore a w = true :=
      mt (fitsStore_iff hr).mp (Nat.not_le_of_gt hs)
    have loadPast (w : Width) (ext : Word → Word) (h : a.toNat % widthBytes w ≠ 0) (hs : st.size < off + widthBytes w) :
        s.loadInto base rt offset w ext = .refused .accessPastStore :=
      loadInto_misaligned_past ha h hp ext hn (past w hs)
    have storePast (w : Width) (h : a.toNat % widthBytes w ≠ 0) (hs : st.size < off + widthBytes w) :
        s.storeFrom base rt offset w = .refused .accessPastStore :=
      storeFrom_misaligned_past ha h hp (past w hs)
    refine ⟨fun h => ⟨fun hs => ⟨?lh, ?lhu, store .half h hs⟩, fun hs => ?halfPast⟩,
      fun h => ⟨fun hs => ⟨load .word id h hs, store .word h hs⟩, fun hs => ?wordPast⟩⟩
    case lh =>
      rw [← setWidth_load_half]
      exact load .half _ h hs
    case lhu =>
      rw [← setWidth_load_half]
      exact load .half _ h hs
    case halfPast =>
      exact ⟨loadPast .half _ h hs, loadPast .half _ h hs, storePast .half h hs⟩
    case wordPast =>
      exact ⟨loadPast .word id h hs, storePast .word h hs⟩

/-! ### The cache-control address (R85) -/

/-- No page of the map holds it, isolated or not. -/
theorem resolve_cacheCtrl (s : State) : s.resolve cacheCtrl = none := by
  unfold State.resolve
  rw [resolveAt_eq]
  rfl

/-- `CacheControl` writes the cache-isolated bit alone. -/
theorem cacheControl_eq (s : State) (v : Word) :
    s.cacheControl v =
      { s with
        cacheIsolated := if v = isolateA ∨ v = isolateB then true else if v = restoreValue then false
          else s.cacheIsolated } := by
  unfold State.cacheControl
  split_ifs <;> rfl

/-- R74, R75, R85: the word store alone reaches `CacheControl`; a narrower one is dropped. -/
theorem memWrite_cacheCtrl (s : State) (w : Width) (v : Word) :
    s.memWrite cacheCtrl w v = if w = .word then s.cacheControl v else s := by
  have hp : isHwFile cacheCtrl = false := by decide
  simp only [State.memWrite, hp, resolve_cacheCtrl, Bool.false_eq_true, if_false, true_and]

theorem memRead_cacheCtrl (s : State) (w : Width) : s.memRead cacheCtrl w = (0, s) := by
  rw [memRead_plain s cacheCtrl w (by decide), rawRead_unmapped (resolve_cacheCtrl s)]

/-- Settles O34: the address is aligned for every width, and only the word store there reaches `CacheControl`. -/
theorem cacheControlStores : Obligations.CacheControlStores := by
  intro base rt offset s haddr v
  have ha : s.effAddr base offset = cacheCtrl := (effAddr_eq s base offset).trans haddr
  have store (w : Width) : s.storeFrom base rt offset w = .next (s.memWrite cacheCtrl w v) :=
    storeFrom_aligned ha (accessKind_aligned (by cases w <;> rfl))
  rw [exec_sw, exec_sh, exec_sb, store, store, store, memWrite_cacheCtrl, memWrite_cacheCtrl, memWrite_cacheCtrl,
    cacheControl_eq]
  exact ⟨rfl, rfl, rfl, memRead_cacheCtrl s⟩

end Sys2Proof.Machine

/-! ## The decoder, the encoder and the no-op encodings (30_encoding.md R101 to R110)

One correspondence carries the three statements about words: a word decodes to an instruction exactly when it has the key bits of
that instruction's row, and the operands are then the word's fields. -/

namespace Sys2Proof.Laws.Encoding

/-- The family, over all constructors. -/
theorem statement_all (i : Instr) : Statement i :=
  i.casesOn (motive := Statement) addi addiu slti sltiu andi ori xori lui add addu sub subu and or xor nor slt sltu sll srl sra
    sllv srlv srav mult multu div divu mfhi mflo mthi mtlo j jal jr jalr beq bne blez bgtz bltz bgez bltzal bgezal lb lbu lh lhu
    lw lwl lwr sb sh sw swl swr syscall brk mfc0 cfc0 mtc0 ctc0 rfe

end Sys2Proof.Laws.Encoding

namespace Sys2Proof

/-! ### A word put together from its fields (R101) -/

theorem encI_fields (w : Word) : encI (opOf w) (rsOf w) (rtOf w) (immOf w) = w := by
  unfold encI opOf rsOf rtOf immOf
  iterate 3 rw [BitVec.extractLsb'_append_extractLsb'_eq_extractLsb' (by rfl)]
  exact BitVec.extractLsb'_eq_self

theorem encR_fields (w : Word) : encR (opOf w) (rsOf w) (rtOf w) (rdOf w) (shamtOf w) (functOf w) = w := by
  unfold encR opOf rsOf rtOf rdOf shamtOf functOf
  iterate 5 rw [BitVec.extractLsb'_append_extractLsb'_eq_extractLsb' (by rfl)]
  exact BitVec.extractLsb'_eq_self

/-! ### The key bits of a row, as fields (R102, R103) -/

theorem keyBits_primary (w : Word) : w &&& 0xFC000000#32 = opOf w ++ 0#26 := by
  rw [← maskPrimary_encI (opOf w) (rsOf w) (rtOf w) (immOf w), encI_fields]

theorem keyBits_special (w : Word) : w &&& 0xFC00003F#32 = opOf w ++ 0#20 ++ functOf w := by
  rw [← maskSpecial_encR (opOf w) (rsOf w) (rtOf w) (rdOf w) (shamtOf w) (functOf w), encR_fields]

theorem keyBits_regimm (w : Word) : w &&& 0xFC1F0000#32 = opOf w ++ 0#5 ++ rtOf w ++ 0#16 := by
  rw [← maskRegimm_encI (opOf w) (rsOf w) (rtOf w) (immOf w), encI_fields]

theorem keyBits_cop0 (w : Word) : w &&& 0xFFE00000#32 = opOf w ++ rsOf w ++ 0#21 := by
  rw [← maskCop0_encR (opOf w) (rsOf w) (rtOf w) (rdOf w) (shamtOf w) (functOf w), encR_fields]

section
variable {r : TableRow} {i : Instr} {w : Word}

/-- A field that lies inside the key bits has the row's value in every word of the row. -/
theorem field_of_selects (lo n : Nat) (hm : r.mask.extractLsb' lo n = BitVec.allOnes n) (h : r.selects w = true) :
    w.extractLsb' lo n = r.bits.extractLsb' lo n := by
  rw [← beq_iff_eq.mp h, BitVec.extractLsb'_and, hm, BitVec.and_allOnes]

/-- The op is among the key bits of every row. -/
theorem opOf_of_selects (h : i.row.selects w = true) : opOf w = opOf i.row.bits :=
  field_of_selects 26 6 (by cases i <;> dsimp only [Instr.row] <;> decide) h

theorem functOf_of_selects (hm : r.mask = 0xFC00003F#32) (h : r.selects w = true) : functOf w = functOf r.bits :=
  field_of_selects 0 6 (hm ▸ by decide) h

theorem rtOf_of_selects (hm : r.mask = 0xFC1F0000#32) (h : r.selects w = true) : rtOf w = rtOf r.bits :=
  field_of_selects 16 5 (hm ▸ by decide) h

theorem rsOf_of_selects (hm : r.mask = 0xFFE00000#32) (h : r.selects w = true) : rsOf w = rsOf r.bits :=
  field_of_selects 21 5 (hm ▸ by decide) h

/-- The decoder's tables are indexed by numbers, the rows given by bits. -/
theorem eq_ofNat_of_toNat_eq {n k : Nat} {v : BitVec n} (h : v.toNat = k) : v = BitVec.ofNat n k := by
  rw [← h, BitVec.ofNat_toNat, BitVec.setWidth_eq]

theorem selects_of_op {op : Nat} (hop : (opOf w).toNat = op) (hm : r.mask = 0xFC000000#32)
    (hb : BitVec.ofNat 6 op ++ 0#26 = r.bits) : r.selects w = true := by
  rw [TableRow.selects, hm, keyBits_primary, eq_ofNat_of_toNat_eq hop, hb, beq_self_eq_true]

theorem selects_of_funct {fn : Nat} (hop : (opOf w).toNat = 0) (hfn : (functOf w).toNat = fn)
    (hm : r.mask = 0xFC00003F#32) (hb : 0#6 ++ 0#20 ++ BitVec.ofNat 6 fn = r.bits) : r.selects w = true := by
  rw [TableRow.selects, hm, keyBits_special, eq_ofNat_of_toNat_eq hop, eq_ofNat_of_toNat_eq hfn, hb, beq_self_eq_true]

theorem selects_of_rt {rt : Nat} (hop : (opOf w).toNat = 1) (hrt : (rtOf w).toNat = rt)
    (hm : r.mask = 0xFC1F0000#32) (hb : 1#6 ++ 0#5 ++ BitVec.ofNat 5 rt ++ 0#16 = r.bits) : r.selects w = true := by
  rw [TableRow.selects, hm, keyBits_regimm, eq_ofNat_of_toNat_eq hop, eq_ofNat_of_toNat_eq hrt, hb, beq_self_eq_true]

theorem selects_of_rs {rs : Nat} (hop : (opOf w).toNat = 16) (hrs : (rsOf w).toNat = rs)
    (hm : r.mask = 0xFFE00000#32) (hb : 16#6 ++ BitVec.ofNat 5 rs ++ 0#21 = r.bits) : r.selects w = true := by
  rw [TableRow.selects, hm, keyBits_cop0, eq_ofNat_of_toNat_eq hop, eq_ofNat_of_toNat_eq hrs, hb, beq_self_eq_true]

/-! ### The decoder and the rows (R102 to R108) -/

/-- R103: the decoder answers with an instruction of a row only on a word with the key bits of that row. -/
theorem selects_of_decode (h : decode w = .instr i) : i.row.selects w = true := by
  unfold decode at h
  split at h
  case h_1 hop =>
    unfold decodeSpecial at h
    split at h <;> cases h <;> exact selects_of_funct hop ‹_› rfl rfl
  case h_2 hop =>
    unfold decodeRegimm at h
    split at h <;> cases h <;> exact selects_of_rt hop ‹_› rfl rfl
  case h_3 hop =>
    unfold decodeCop0 at h
    split at h <;> cases h <;> exact selects_of_rs hop ‹_› rfl rfl
  all_goals cases h
  all_goals exact selects_of_op ‹_› rfl rfl

theorem decode_special (hop : opOf w = 0#6) : decode w = decodeSpecial w := by
  rw [decode, hop]
  rfl

theorem decode_regimm (hop : opOf w = 1#6) : decode w = decodeRegimm w := by
  rw [decode, hop]
  rfl

theorem decode_cop0 (hop : opOf w = 16#6) : decode w = decodeCop0 w := by
  rw [decode, hop]
  rfl

/-- The instruction of `i`'s row whose operands are the fields of `w` (00_scope.md R9; the operand column of the opcode table). -/
def Instr.withFieldsOf (i : Instr) (w : Word) : Instr :=
  match i with
  | .addi .. => .addi (rsOf w) (rtOf w) (immOf w)
  | .addiu .. => .addiu (rsOf w) (rtOf w) (immOf w)
  | .slti .. => .slti (rsOf w) (rtOf w) (immOf w)
  | .sltiu .. => .sltiu (rsOf w) (rtOf w) (immOf w)
  | .andi .. => .andi (rsOf w) (rtOf w) (immOf w)
  | .ori .. => .ori (rsOf w) (rtOf w) (immOf w)
  | .xori .. => .xori (rsOf w) (rtOf w) (immOf w)
  | .lui .. => .lui (rtOf w) (immOf w)
  | .add .. => .add (rsOf w) (rtOf w) (rdOf w)
  | .addu .. => .addu (rsOf w) (rtOf w) (rdOf w)
  | .sub .. => .sub (rsOf w) (rtOf w) (rdOf w)
  | .subu .. => .subu (rsOf w) (rtOf w) (rdOf w)
  | .and .. => .and (rsOf w) (rtOf w) (rdOf w)
  | .or .. => .or (rsOf w) (rtOf w) (rdOf w)
  | .xor .. => .xor (rsOf w) (rtOf w) (rdOf w)
  | .nor .. => .nor (rsOf w) (rtOf w) (rdOf w)
  | .slt .. => .slt (rsOf w) (rtOf w) (rdOf w)
  | .sltu .. => .sltu (rsOf w) (rtOf w) (rdOf w)
  | .sll .. => .sll (rtOf w) (rdOf w) (shamtOf w)
  | .srl .. => .srl (rtOf w) (rdOf w) (shamtOf w)
  | .sra .. => .sra (rtOf w) (rdOf w) (shamtOf w)
  | .sllv .. => .sllv (rsOf w) (rtOf w) (rdOf w)
  | .srlv .. => .srlv (rsOf w) (rtOf w) (rdOf w)
  | .srav .. => .srav (rsOf w) (rtOf w) (rdOf w)
  | .mult .. => .mult (rsOf w) (rtOf w)
  | .multu .. => .multu (rsOf w) (rtOf w)
  | .div .. => .div (rsOf w) (rtOf w)
  | .divu .. => .divu (rsOf w) (rtOf w)
  | .mfhi .. => .mfhi (rdOf w)
  | .mflo .. => .mflo (rdOf w)
  | .mthi .. => .mthi (rsOf w)
  | .mtlo .. => .mtlo (rsOf w)
  | .j .. => .j (targetOf w)
  | .jal .. => .jal (targetOf w)
  | .jr .. => .jr (rsOf w)
  | .jalr .. => .jalr (rsOf w) (rdOf w)
  | .beq .. => .beq (rsOf w) (rtOf w) (immOf w)
  | .bne .. => .bne (rsOf w) (rtOf w) (immOf w)
  | .blez .. => .blez (rsOf w) (immOf w)
  | .bgtz .. => .bgtz (rsOf w) (immOf w)
  | .bltz .. => .bltz (rsOf w) (immOf w)
  | .bgez .. => .bgez (rsOf w) (immOf w)
  | .bltzal .. => .bltzal (rsOf w) (immOf w)
  | .bgezal .. => .bgezal (rsOf w) (immOf w)
  | .lb .. => .lb (rsOf w) (rtOf w) (immOf w)
  | .lbu .. => .lbu (rsOf w) (rtOf w) (immOf w)
  | .lh .. => .lh (rsOf w) (rtOf w) (immOf w)
  | .lhu .. => .lhu (rsOf w) (rtOf w) (immOf w)
  | .lw .. => .lw (rsOf w) (rtOf w) (immOf w)
  | .lwl .. => .lwl (rsOf w) (rtOf w) (immOf w)
  | .lwr .. => .lwr (rsOf w) (rtOf w) (immOf w)
  | .sb .. => .sb (rsOf w) (rtOf w) (immOf w)
  | .sh .. => .sh (rsOf w) (rtOf w) (immOf w)
  | .sw .. => .sw (rsOf w) (rtOf w) (immOf w)
  | .swl .. => .swl (rsOf w) (rtOf w) (immOf w)
  | .swr .. => .swr (rsOf w) (rtOf w) (immOf w)
  | .syscall .. => .syscall (codeOf w)
  | .brk .. => .brk (codeOf w)
  | .mfc0 .. => .mfc0 (rtOf w) (rdOf w)
  | .cfc0 .. => .cfc0 (rtOf w) (rdOf w)
  | .mtc0 .. => .mtc0 (rtOf w) (rdOf w)
  | .ctc0 .. => .ctc0 (rtOf w) (rdOf w)
  | .rfe => .rfe

/-- R104: a word with the key bits of a row decodes to the instruction of that row with the word's fields as operands. -/
theorem decode_of_selects (h : i.row.selects w = true) : decode w = .instr (i.withFieldsOf w) := by
  have hop := opOf_of_selects h
  cases i with
  | add | addu | sub | subu | and | or | xor | nor | slt | sltu | sll | srl | sra | sllv | srlv | srav | mult | multu | div | divu
  | mfhi | mflo | mthi | mtlo | jr | jalr | syscall | brk =>
    have hfn := functOf_of_selects rfl h
    dsimp only [Instr.row] at hop hfn
    rw [decode_special hop, decodeSpecial, hfn]
    rfl
  | bltz | bgez | bltzal | bgezal =>
    have hrt := rtOf_of_selects rfl h
    dsimp only [Instr.row] at hop hrt
    rw [decode_regimm hop, decodeRegimm, hrt]
    rfl
  | mfc0 | cfc0 | mtc0 | ctc0 | rfe =>
    have hrs := rsOf_of_selects rfl h
    dsimp only [Instr.row] at hop hrs
    rw [decode_cop0 hop, decodeCop0, hrs]
    rfl
  | _ =>
    dsimp only [Instr.row] at hop
    rw [decode, hop]
    rfl

theorem row_withFieldsOf (i : Instr) (w : Word) : (i.withFieldsOf w).row = i.row := by cases i <;> rfl

/-- The operands of a decoded instruction are the fields of its word. -/
theorem withFieldsOf_of_decode (h : decode w = .instr i) : i.withFieldsOf w = i :=
  Decoded.instr.inj ((decode_of_selects (selects_of_decode h)).symm.trans h)

theorem withFieldsOf_encode (i : Instr) : i.withFieldsOf (encode i) = i := by
  cases i <;>
    simp only [encode, Instr.withFieldsOf, rsOf_encR, rtOf_encR, rdOf_encR, shamtOf_encR, rsOf_encI, rtOf_encI, immOf_encI,
      targetOf_encJ, codeOf_encCode]

end

/-! ### The statements about words -/

/-- Settles O1: the encoder writes the key bits of the row and every operand into its field, and the decoder selects by the
one and reads the other. -/
theorem decodeOfEncode : Obligations.DecodeOfEncode := fun i => by
  rw [decode_of_selects (Laws.Encoding.statement_all i).2, withFieldsOf_encode]

/-- Settles O3: by the correspondence of `selects_of_decode` and `decode_of_selects`. -/
theorem decoderSelectsByKeyBits : Obligations.DecoderSelectsByKeyBits := by
  have hrow (w : Word) (i : Instr) : i.row.selects w = true ↔ ∃ j, decode w = .instr j ∧ j.row = i.row := by
    constructor
    · exact fun h => ⟨_, decode_of_selects h, row_withFieldsOf i w⟩
    · rintro ⟨j, hj, hr⟩
      exact hr ▸ selects_of_decode hj
  refine ⟨hrow, fun w => ⟨?onlyThere, ?there⟩⟩
  case onlyThere =>
    rintro ⟨why, hwhy⟩ i
    refine Bool.eq_false_iff.mpr fun hsel => ?_
    cases hwhy.symm.trans (decode_of_selects hsel)
  case there =>
    intro hnone
    cases hd : decode w with
    | noOp why => exact ⟨why, rfl⟩
    | instr i => exact absurd (selects_of_decode hd) (Bool.eq_false_iff.mp (hnone i))

/-! ### Operands as fields -/

/-- The field holds the bits of `w` at its place. -/
def Field.Holds (f : Field) (w : Word) : Prop := f.value = w.toNat / 2 ^ f.lo % 2 ^ f.width

theorem toNat_extractLsb'_eq_div_mod (w : Word) (lo n : Nat) : (w.extractLsb' lo n).toNat = w.toNat / 2 ^ lo % 2 ^ n := by
  rw [BitVec.extractLsb'_toNat, Nat.shiftRight_eq_div_pow]

@[simp] theorem holds_rs (w : Word) : (Field.rs (rsOf w)).Holds w := toNat_extractLsb'_eq_div_mod w 21 5
@[simp] theorem holds_base (w : Word) : (Field.base (rsOf w)).Holds w := toNat_extractLsb'_eq_div_mod w 21 5
@[simp] theorem holds_rt (w : Word) : (Field.rt (rtOf w)).Holds w := toNat_extractLsb'_eq_div_mod w 16 5
@[simp] theorem holds_rd (w : Word) : (Field.rd (rdOf w)).Holds w := toNat_extractLsb'_eq_div_mod w 11 5
@[simp] theorem holds_shamt (w : Word) : (Field.shamt (shamtOf w)).Holds w := toNat_extractLsb'_eq_div_mod w 6 5
@[simp] theorem holds_imm (w : Word) : (Field.imm (immOf w)).Holds w := toNat_extractLsb'_eq_div_mod w 0 16
@[simp] theorem holds_offset (w : Word) : (Field.offset (immOf w)).Holds w := toNat_extractLsb'_eq_div_mod w 0 16
@[simp] theorem holds_target (w : Word) : (Field.target (targetOf w)).Holds w := toNat_extractLsb'_eq_div_mod w 0 26
@[simp] theorem holds_code (w : Word) : (Field.code (codeOf w)).Holds w := toNat_extractLsb'_eq_div_mod w 6 20

/-- The operand lists name each field at the place `withFieldsOf` reads it from. -/
theorem fields_withFieldsOf_hold (i : Instr) (w : Word) : ∀ f ∈ (i.withFieldsOf w).fields, f.Holds w := by
  cases i <;> simp [Instr.withFieldsOf, Instr.fields]

/-- Settles O4: the operands are those the word's fields give. -/
theorem decoderReadsTheFields : Obligations.DecoderReadsTheFields := fun w i h =>
  withFieldsOf_of_decode h ▸ fields_withFieldsOf_hold i w

end Sys2Proof

namespace Sys2Proof.Machine

/-! ### Steps of a no-op encoding (R110, 46_system_cop0.md R240) -/

/-- No row of the opcode table lies in COP1 to COP3, LWCz or SWCz. -/
theorem opOf_row_not_coprocessor (i : Instr) :
    ¬((17#6 ≤ opOf i.row.bits ∧ opOf i.row.bits ≤ 19#6) ∨ (48#6 ≤ opOf i.row.bits ∧ opOf i.row.bits ≤ 51#6) ∨
      (56#6 ≤ opOf i.row.bits ∧ opOf i.row.bits ≤ 59#6)) := by
  cases i <;> dsimp only [Instr.row] <;> decide

/-- R12, R104: an aligned fetch whose word is a no-op encoding finds that encoding. -/
theorem fetchStage_of_noOp {s : State} {why : NoOp} (ha : wordAligned s.pc = true)
    (hd : decode (s.fetch s.pc) = .noOp why) : s.fetchStage = .noOp why s.executing := by
  simp only [State.fetchStage, ha, hd, if_true, State.executing]

/-- R110: such a step is what every step does around its instruction. -/
theorem step_of_noOp {s : State} {why : NoOp} (ha : wordAligned s.pc = true) (hd : decode (s.fetch s.pc) = .noOp why) :
    step s = .next s.executing.endStep := by
  simp only [step, State.stepWith, fetchStage_of_noOp ha hd, execNoOp, onNext]

theorem fireIfDue_of_not_due {s : State} {i : Fin 4} (h : counterDue s.cycle s.ctr[i] = false) : s.fireIfDue i = s := by
  simp only [State.fireIfDue, h, Bool.false_eq_true, if_false]

/-- 60_exceptions.md R320: with no counter due there is nothing to catch up. -/
theorem catchUp_of_none_due {s : State} (h : ∀ i : Fin 4, counterDue s.cycle s.ctr[i] = false) : s.catchUp = s := by
  rw [State.catchUp, fireIfDue_of_not_due (h 3), fireIfDue_of_not_due (h 0), fireIfDue_of_not_due (h 1),
    fireIfDue_of_not_due (h 2)]

theorem State.quiet.evaluate {s : State} (h : s.quiet) : s.evaluate = s := by
  obtain ⟨hdue, hint⟩ := h
  simp only [State.evaluate, catchUp_of_none_due hdue, hint, Bool.false_eq_true, if_false]

/-- A completed transfer moves pc, which no counter and no interrupt depends on. -/
theorem State.quiet.completeTransfer {s : State} (h : s.quiet) : s.completeTransfer.quiet := by
  unfold State.completeTransfer
  split
  · exact h
  · split <;> exact h

/-- An evaluation with nothing due leaves the completed transfer alone, whether or not the point is reached. -/
theorem endStep_of_quiet {s : State} (h : s.quiet) : s.endStep = s.completeTransfer.endCtx := by
  simp only [State.endStep, h.completeTransfer.evaluate, ite_self]

/-- R12: where the instruction did nothing, the step ends at the target of a taken transfer, or after itself. -/
theorem completeTransfer_startStep (s : State) (w : Word) :
    (s.startStep w).completeTransfer = (s.startStep w).setPc (match s.slot with | .taken t => t | _ => s.pc + 4) := by
  simp only [State.completeTransfer, State.startStep, Bool.false_eq_true, if_false]
  cases s.slot <;> rfl

/-- Settles O5: no row holds these ops; and a step around no instruction is its own beginning and end. -/
theorem noOpEncodings : Obligations.NoOpEncodings := by
  refine ⟨fun w hw => ?word, fun s why ha hd => ⟨step_of_noOp ha hd, fun hq => ?quiet⟩⟩
  case word =>
    cases hd : decode w with
    | noOp why => exact ⟨why, rfl⟩
    | instr i =>
      rw [opOf_of_selects (selects_of_decode hd)] at hw
      exact absurd hw (opOf_row_not_coprocessor i)
  case quiet =>
    rw [step_of_noOp ha hd, endStep_of_quiet hq, State.executing, completeTransfer_startStep]
    rfl

end Sys2Proof.Machine

/-! ## Immediate arithmetic and logic, and the traps left open (40_alu_immediate.md)

A result goes to one register or is replaced by the overflow trap; each is stated once for the shared operation, and the
instructions are that operation on the operand forms. -/

namespace Sys2Proof.Machine

/-! ### Words by their op (30_encoding.md R102, R105) -/

/-- Every word with the op of a primary row decodes to that row's instruction, with the word's fields as operands. -/
theorem primaryEntry_withFieldsOf {op : BitVec 6} (i : Instr) (hm : i.row.mask = 0xFC000000#32)
    (hb : op ++ 0#26 = i.row.bits) : PrimaryEntry op i.withFieldsOf := fun w hop =>
  decode_of_selects (by rw [TableRow.selects, hm, keyBits_primary, hop, hb, beq_self_eq_true])

/-- Settles O2: the words are closed, so the decoder is evaluated on each. -/
theorem sampleWordsDecode : Obligations.SampleWordsDecode := by
  unfold Obligations.SampleWordsDecode
  decide

/-! ### The operand forms and the comparisons, as numbers and as bits (R115, R133, R134) -/

/-- The 32-bit pattern of a sign-extended immediate. -/
theorem sext16_toNat (v : Half) :
    (sext16 v).toNat = if v.toNat < 0x8000 then v.toNat else v.toNat + 0xFFFF0000 := by
  rw [sext16, BitVec.toNat_signExtend, BitVec.msb_eq_decide, BitVec.toNat_setWidth_of_le (by decide)]
  by_cases h : v.toNat < 0x8000
  · simp [h]
  · simp [h]

/-- Zero extension adds no set bit. -/
@[simp] theorem zext16_getLsbD (v : Half) (k : Nat) : (zext16 v).getLsbD k = v.getLsbD k := by
  rw [zext16, BitVec.getLsbD_setWidth]
  by_cases hk : k < 32
  · simp [hk]
  · simp [hk, BitVec.getLsbD_of_ge v k (by omega)]

/-- LUI's operand is the immediate times 2^16. -/
theorem upperImm_eq_ofNat (v : Half) : upperImm v = BitVec.ofNat 32 (v.toNat * 0x10000) := by
  have hv : v.toNat * 0x10000 < 2 ^ 32 := by have := v.isLt; omega
  apply BitVec.eq_of_toNat_eq
  rw [BitVec.toNat_ofNat, Nat.mod_eq_of_lt hv, upperImm, BitVec.toNat_append, BitVec.toNat_ofNat, Nat.zero_mod, Nat.or_zero,
    Nat.shiftLeft_eq]

theorem boolWord_lessSigned (a b : Word) : boolWord (lessSigned a b) = if a.toInt < b.toInt then 1 else 0 := by
  simp only [boolWord, lessSigned, decide_eq_true_eq]

theorem boolWord_lessUnsigned (a b : Word) : boolWord (lessUnsigned a b) = if a.toNat < b.toNat then 1 else 0 := by
  simp only [boolWord, lessUnsigned, decide_eq_true_eq]

/-- With a sign-extended immediate an addition overflows exactly when the exact sum is no 32-bit value (R131). -/
theorem addOverflows_sext16_eq_false (a : Word) (imm : Half) :
    addOverflows a (sext16 imm) = false ↔ -2 ^ 31 ≤ a.toInt + imm.toInt ∧ a.toInt + imm.toInt < 2 ^ 31 := by
  rw [addOverflows_eq_false, sext16_toInt]

/-! ### A result, an overflow, a trap (R130, R131; 60_exceptions.md R262) -/

section Outcomes

variable {s : State} {o : Host.Outcome State Fault Refusal} {c : Cause} {bd : Bool}

theorem onlyReg_of_result {rd : Reg} {v : Word} (ho : o = s.result rd v) : ∃ t, o = .next t ∧ OnlyReg s t rd v :=
  ⟨_, ho, onlyReg_writeReg s rd v⟩

/-- An exception of the executing instruction, with its BD given: the trap entry, in full where no firmware agent runs. -/
theorem trapEntered_of_raiseHere (hbd : s.bdFlag = bd) (ho : o = .next (s.raiseHere c)) :
    ∃ t, o = .next t ∧ t = s.raise c bd s.ia ∧
      (s.params.firmware = .absent → TrapEntered s t (excCode c).toNat (c == .interrupt) bd s.ia) := by
  subst hbd
  exact ⟨_, ho, rfl, trapEntered_raise s c s.bdFlag s.ia⟩

end Outcomes

theorem resultOrOverflow_of_no_trap {s : State} {ovf : Bool} (h : s.params.overflowTraps = false ∨ ovf = false)
    (rd : Reg) (v : Word) : s.resultOrOverflow rd v ovf = s.result rd v := by
  rcases h with h | h <;> simp [State.resultOrOverflow, h]

/-- The trap does not depend on the destination, register 0 included (log 21). -/
theorem resultOrOverflow_of_trap {s : State} {ovf : Bool} (hp : s.params.overflowTraps = true) (h : ovf ≠ false)
    (rd : Reg) (v : Word) : s.resultOrOverflow rd v ovf = .next (s.raiseHere .overflow) := by
  simp [State.resultOrOverflow, hp, Bool.eq_true_of_not_eq_false h]

/-! ### The instructions, by their shared operation (R131 to R138, R141, R143, R231, R232) -/

section Exec

variable (rs rt rd : Reg) (imm : Half) (s : State)

theorem exec_addi : exec (.addi rs rt imm) s =
    s.resultOrOverflow rt (BitVec.ofInt 32 ((s.readReg rs).toInt + imm.toInt))
      (addOverflows (s.readReg rs) (sext16 imm)) := by
  rw [← sext16_toInt, ← add_eq_ofInt]
  rfl

theorem exec_addiu : exec (.addiu rs rt imm) s =
    s.result rt (BitVec.ofInt 32 ((s.readReg rs).toInt + imm.toInt)) := by
  rw [← sext16_toInt, ← add_eq_ofInt]
  rfl

theorem exec_slti : exec (.slti rs rt imm) s =
    s.result rt (if (s.readReg rs).toInt < imm.toInt then 1 else 0) := by
  rw [← sext16_toInt, ← boolWord_lessSigned]
  rfl

theorem exec_sltiu : exec (.sltiu rs rt imm) s =
    s.result rt (if (s.readReg rs).toNat <
      (if imm.toNat < 0x8000 then imm.toNat else imm.toNat + 0xFFFF0000) then 1 else 0) := by
  rw [← sext16_toNat, ← boolWord_lessUnsigned]
  rfl

theorem exec_andi : exec (.andi rs rt imm) s = s.result rt (s.readReg rs &&& zext16 imm) := rfl

theorem exec_ori : exec (.ori rs rt imm) s = s.result rt (s.readReg rs ||| zext16 imm) := rfl

theorem exec_xori : exec (.xori rs rt imm) s = s.result rt (s.readReg rs ^^^ zext16 imm) := rfl

theorem exec_lui : exec (.lui rt imm) s = s.result rt (BitVec.ofNat 32 (imm.toNat * 0x10000)) := by
  rw [← upperImm_eq_ofNat]
  rfl

theorem exec_add : exec (.add rs rt rd) s =
    s.resultOrOverflow rd (s.readReg rs + s.readReg rt) (addOverflows (s.readReg rs) (s.readReg rt)) := rfl

theorem exec_sub : exec (.sub rs rt rd) s =
    s.resultOrOverflow rd (s.readReg rs - s.readReg rt) (subOverflows (s.readReg rs) (s.readReg rt)) := rfl

/-- R131: ADDI overflows on the exact sum, whatever its destination. -/
theorem exec_addi_of_overflow {s : State} (hp : s.params.overflowTraps = true)
    (h : ¬(-2 ^ 31 ≤ (s.readReg rs).toInt + imm.toInt ∧ (s.readReg rs).toInt + imm.toInt < 2 ^ 31)) :
    exec (.addi rs rt imm) s = .next (s.raiseHere .overflow) :=
  (exec_addi rs rt imm s).trans (resultOrOverflow_of_trap hp (mt (addOverflows_sext16_eq_false _ _).mp h) _ _)

theorem exec_syscall (code : BitVec 20) : exec (.syscall code) s = .next (s.raiseHere .syscall) := rfl

theorem exec_brk_of_breakTraps {s : State} (h : s.params.breakTraps = true) (code : BitVec 20) :
    exec (.brk code) s = .next (s.raiseHere .breakpoint) :=
  if_pos h

end Exec

/-! ### The statements -/

/-- Settles O14: the sum is the exact one narrowed; ADDI overflows exactly when the exact sum is out of range. -/
theorem addImmediate : Obligations.AddImmediate := by
  refine ⟨primaryEntry_withFieldsOf (.addi 0 0 0) rfl rfl, primaryEntry_withFieldsOf (.addiu 0 0 0) rfl rfl,
    fun rs rt imm s => ⟨onlyReg_of_result (exec_addiu rs rt imm s), fun hno => ?result, fun hp _ hovf => ?trap⟩⟩
  case result =>
    have hnone := hno.imp_right (addOverflows_sext16_eq_false _ _).mpr
    exact onlyReg_of_result ((exec_addi rs rt imm s).trans (resultOrOverflow_of_no_trap hnone _ _))
  case trap => exact trapEntered_of_raiseHere rfl (exec_addi_of_overflow rs rt imm hp hovf)

/-- Settles O15: both comparisons write their truth value. -/
theorem compareImmediate : Obligations.CompareImmediate :=
  ⟨primaryEntry_withFieldsOf (.slti 0 0 0) rfl rfl, primaryEntry_withFieldsOf (.sltiu 0 0 0) rfl rfl,
    fun rs rt imm s => ⟨onlyReg_of_result (exec_slti rs rt imm s), onlyReg_of_result (exec_sltiu rs rt imm s)⟩⟩

/-- Settles O16: the bits of the zero-extended immediate are those of the immediate. -/
theorem logicImmediate : Obligations.LogicImmediate := by
  refine ⟨primaryEntry_withFieldsOf (.andi 0 0 0) rfl rfl, primaryEntry_withFieldsOf (.ori 0 0 0) rfl rfl,
    primaryEntry_withFieldsOf (.xori 0 0 0) rfl rfl, primaryEntry_withFieldsOf (.lui 0 0) rfl rfl,
    fun rs rt imm s => ⟨?andi, ?ori, ?xori, onlyReg_of_result (exec_lui rt imm s)⟩⟩
  case andi => exact ⟨_, _, exec_andi rs rt imm s, onlyReg_writeReg _ _ _, by simp⟩
  case ori => exact ⟨_, _, exec_ori rs rt imm s, onlyReg_writeReg _ _ _, by simp⟩
  case xori => exact ⟨_, _, exec_xori rs rt imm s, onlyReg_writeReg _ _ _, by simp⟩

/-- BD behind a branch that was not taken, where BD_ON_NOT_TAKEN leaves it out (log 17). -/
theorem bdFlag_of_notTaken {s : State} (hc : s.ctx.consumed = .notTaken) (hp : s.params.bdOnNotTaken = false) :
    s.bdFlag = false := by
  simp only [State.bdFlag, hc, hp]

/-- Settles O60: the overflow trap does not look at the destination, and EPC follows the BD of the slot state. -/
theorem trapsTheSpecLeavesOpen : Obligations.TrapsTheSpecLeavesOpen := by
  refine ⟨?overflow, fun code s hc hp => ?slot⟩
  case overflow =>
    intro rs rt imm s hp a b overflows traps
    refine ⟨fun h => ?addi, fun h => ?add, fun h => ?sub⟩
    case addi => exact trapEntered_of_raiseHere rfl (exec_addi_of_overflow rs 0 imm hp h)
    case add =>
      have hovf := mt (addOverflows_eq_false _ _).mp h
      exact trapEntered_of_raiseHere rfl ((exec_add rs rt 0 s).trans (resultOrOverflow_of_trap hp hovf _ _))
    case sub =>
      have hovf := mt (subOverflows_eq_false _ _).mp h
      exact trapEntered_of_raiseHere rfl ((exec_sub rs rt 0 s).trans (resultOrOverflow_of_trap hp hovf _ _))
  case slot =>
    have hbd : s.bdFlag = false := bdFlag_of_notTaken hc hp
    exact ⟨hbd, trapEntered_of_raiseHere hbd (exec_syscall s code),
      fun hb => trapEntered_of_raiseHere hbd (exec_brk_of_breakTraps hb code)⟩

end Sys2Proof.Machine

/-! ## Register arithmetic and logic (41_alu_register.md)

ADD and SUB are the overflowing operation on the exact sum and difference; the other instructions write a result. -/

namespace Sys2Proof.Machine

/-! ### Words by their funct (30_encoding.md R102, R106) -/

/-- Every word with op 0 and the funct of a SPECIAL row decodes to that row's instruction, with the word's fields as operands. -/
theorem specialEntry_withFieldsOf {funct : BitVec 6} (i : Instr) (hm : i.row.mask = 0xFC00003F#32)
    (hb : 0#6 ++ 0#20 ++ funct = i.row.bits) : SpecialEntry funct i.withFieldsOf := fun w hop hfn =>
  decode_of_selects (by rw [TableRow.selects, hm, keyBits_special, hop, hfn, hb, beq_self_eq_true])

/-! ### The instructions, by their shared operation (R142, R144 to R150) -/

section Exec

variable (rs rt rd : Reg) (s : State)

theorem exec_addu : exec (.addu rs rt rd) s =
    s.result rd (BitVec.ofInt 32 ((s.readReg rs).toInt + (s.readReg rt).toInt)) := by
  rw [← add_eq_ofInt]
  rfl

theorem exec_subu : exec (.subu rs rt rd) s =
    s.result rd (BitVec.ofInt 32 ((s.readReg rs).toInt - (s.readReg rt).toInt)) := by
  rw [← sub_eq_ofInt]
  rfl

theorem exec_and : exec (.and rs rt rd) s = s.result rd (s.readReg rs &&& s.readReg rt) := rfl

theorem exec_or : exec (.or rs rt rd) s = s.result rd (s.readReg rs ||| s.readReg rt) := rfl

theorem exec_xor : exec (.xor rs rt rd) s = s.result rd (s.readReg rs ^^^ s.readReg rt) := rfl

theorem exec_nor : exec (.nor rs rt rd) s = s.result rd (~~~(s.readReg rs ||| s.readReg rt)) := rfl

theorem exec_slt : exec (.slt rs rt rd) s =
    s.result rd (if (s.readReg rs).toInt < (s.readReg rt).toInt then 1 else 0) := by
  rw [← boolWord_lessSigned]
  rfl

theorem exec_sltu : exec (.sltu rs rt rd) s =
    s.result rd (if (s.readReg rs).toNat < (s.readReg rt).toNat then 1 else 0) := by
  rw [← boolWord_lessUnsigned]
  rfl

end Exec

/-! ### A result that overflows exactly when an exact integer is no 32-bit value (R141, R143) -/

section Exact

variable {s : State} {o : Host.Outcome State Fault Refusal} {rd : Reg} {x : Int} {ovf : Bool}

/-- With the trap disabled, or in range, the exact integer is written, narrowed. -/
theorem onlyReg_of_exact_no_trap (ho : o = s.resultOrOverflow rd (BitVec.ofInt 32 x) ovf)
    (hx : ovf = false ↔ -2 ^ 31 ≤ x ∧ x < 2 ^ 31)
    (hno : s.params.overflowTraps = false ∨ (-2 ^ 31 ≤ x ∧ x < 2 ^ 31)) :
    ∃ t, o = .next t ∧ OnlyReg s t rd (BitVec.ofInt 32 x) :=
  onlyReg_of_result (ho.trans (resultOrOverflow_of_no_trap (hno.imp_right hx.mpr) _ _))

/-- With the trap enabled and out of range, the overflow trap is taken. -/
theorem trapEntered_of_exact_overflow (ho : o = s.resultOrOverflow rd (BitVec.ofInt 32 x) ovf)
    (hx : ovf = false ↔ -2 ^ 31 ≤ x ∧ x < 2 ^ 31) (hp : s.params.overflowTraps = true)
    (hout : ¬(-2 ^ 31 ≤ x ∧ x < 2 ^ 31)) :
    ∃ t, o = .next t ∧ t = s.raise .overflow s.bdFlag s.ia ∧
      (s.params.firmware = .absent → TrapEntered s t 12 false s.bdFlag s.ia) :=
  trapEntered_of_raiseHere rfl (ho.trans (resultOrOverflow_of_trap hp (mt hx.mp hout) _ _))

end Exact

/-! ### The statements -/

/-- Settles O17: sum and difference are the exact ones narrowed; ADD and SUB overflow exactly when these are out of range. -/
theorem addSubtractRegister : Obligations.AddSubtractRegister := by
  refine ⟨specialEntry_withFieldsOf (.add 0 0 0) rfl rfl, specialEntry_withFieldsOf (.addu 0 0 0) rfl rfl,
    specialEntry_withFieldsOf (.sub 0 0 0) rfl rfl, specialEntry_withFieldsOf (.subu 0 0 0) rfl rfl, fun rs rt rd s => ?_⟩
  have hadd := exec_add rs rt rd s
  have hsub := exec_sub rs rt rd s
  have haddOvf := addOverflows_eq_false (s.readReg rs) (s.readReg rt)
  have hsubOvf := subOverflows_eq_false (s.readReg rs) (s.readReg rt)
  rw [add_eq_ofInt] at hadd
  rw [sub_eq_ofInt] at hsub
  exact ⟨onlyReg_of_result (exec_addu rs rt rd s), onlyReg_of_result (exec_subu rs rt rd s),
    onlyReg_of_exact_no_trap hadd haddOvf, onlyReg_of_exact_no_trap hsub hsubOvf,
    fun hp _ => trapEntered_of_exact_overflow hadd haddOvf hp, fun hp _ => trapEntered_of_exact_overflow hsub hsubOvf hp⟩

/-- Settles O18: each result is the bitwise operation on the two registers. -/
theorem logicRegister : Obligations.LogicRegister := by
  refine ⟨specialEntry_withFieldsOf (.and 0 0 0) rfl rfl, specialEntry_withFieldsOf (.or 0 0 0) rfl rfl,
    specialEntry_withFieldsOf (.xor 0 0 0) rfl rfl, specialEntry_withFieldsOf (.nor 0 0 0) rfl rfl,
    fun rs rt rd s => ⟨?and, ?or, ?xor, ?nor⟩⟩
  case and => exact ⟨_, _, exec_and rs rt rd s, onlyReg_writeReg _ _ _, fun _ => BitVec.getLsbD_and⟩
  case or => exact ⟨_, _, exec_or rs rt rd s, onlyReg_writeReg _ _ _, fun _ => BitVec.getLsbD_or⟩
  case xor => exact ⟨_, _, exec_xor rs rt rd s, onlyReg_writeReg _ _ _, fun _ => BitVec.getLsbD_xor⟩
  case nor =>
    refine ⟨_, _, exec_nor rs rt rd s, onlyReg_writeReg _ _ _, fun k hk => ?_⟩
    rw [BitVec.getLsbD_not, decide_eq_true hk, Bool.true_and, BitVec.getLsbD_or]

/-- Settles O19: both comparisons write their truth value. -/
theorem compareRegister : Obligations.CompareRegister :=
  ⟨specialEntry_withFieldsOf (.slt 0 0 0) rfl rfl, specialEntry_withFieldsOf (.sltu 0 0 0) rfl rfl,
    fun rs rt rd s => ⟨onlyReg_of_result (exec_slt rs rt rd s), onlyReg_of_result (exec_sltu rs rt rd s)⟩⟩

end Sys2Proof.Machine

/-! ## Shifts (42_shift.md)

A shift is a product or a floor quotient by a power of two; the variable forms take the exponent from the low five bits of a
register. -/

namespace Sys2Proof.Machine

/-! ### The shifts as arithmetic (R155) -/

/-- Shifting left multiplies by the power of two and narrows. -/
theorem shiftLeft_eq_ofNat (a : Word) (k : Nat) : a <<< k = BitVec.ofNat 32 (a.toNat * 2 ^ k) := by
  apply BitVec.eq_of_toNat_eq
  rw [BitVec.toNat_shiftLeft, BitVec.toNat_ofNat, Nat.shiftLeft_eq]

/-- Shifting right logically is the floor quotient of the unsigned value. -/
theorem ushiftRight_eq_ofNat (a : Word) (k : Nat) : a >>> k = BitVec.ofNat 32 (a.toNat / 2 ^ k) := by
  rw [← Nat.shiftRight_eq_div_pow, ← BitVec.toNat_ushiftRight, BitVec.ofNat_toNat, BitVec.setWidth_eq]

/-- Shifting right arithmetically is the floor quotient of the signed value. -/
theorem sshiftRight_eq_ofInt (a : Word) (k : Nat) : a.sshiftRight k = BitVec.ofInt 32 (a.toInt / 2 ^ k) := by
  rw [BitVec.sshiftRight, Int.shiftRight_eq_div_pow, Nat.cast_pow, Nat.cast_ofNat]

/-- The low five bits are the remainder by 32. -/
theorem shiftAmount_eq_mod (v : Word) : shiftAmount v = v.toNat % 32 := by
  rw [shiftAmount, toNat_extractLsb'_eq_div_mod, Nat.pow_zero, Nat.div_one]
  rfl

/-! ### The instructions, by their shared operation (R156 to R161) -/

section Exec

variable (rs rt rd : Reg) (sh : BitVec 5) (s : State)

theorem exec_sll : exec (.sll rt rd sh) s =
    s.result rd (BitVec.ofNat 32 ((s.readReg rt).toNat * 2 ^ sh.toNat)) := by
  rw [← shiftLeft_eq_ofNat]
  rfl

theorem exec_srl : exec (.srl rt rd sh) s =
    s.result rd (BitVec.ofNat 32 ((s.readReg rt).toNat / 2 ^ sh.toNat)) := by
  rw [← ushiftRight_eq_ofNat]
  rfl

theorem exec_sra : exec (.sra rt rd sh) s =
    s.result rd (BitVec.ofInt 32 ((s.readReg rt).toInt / 2 ^ sh.toNat)) := by
  rw [← sshiftRight_eq_ofInt]
  rfl

theorem exec_sllv : exec (.sllv rs rt rd) s =
    s.result rd (BitVec.ofNat 32 ((s.readReg rt).toNat * 2 ^ ((s.readReg rs).toNat % 32))) := by
  rw [← shiftAmount_eq_mod, ← shiftLeft_eq_ofNat]
  rfl

theorem exec_srlv : exec (.srlv rs rt rd) s =
    s.result rd (BitVec.ofNat 32 ((s.readReg rt).toNat / 2 ^ ((s.readReg rs).toNat % 32))) := by
  rw [← shiftAmount_eq_mod, ← ushiftRight_eq_ofNat]
  rfl

theorem exec_srav : exec (.srav rs rt rd) s =
    s.result rd (BitVec.ofInt 32 ((s.readReg rt).toInt / 2 ^ ((s.readReg rs).toNat % 32))) := by
  rw [← shiftAmount_eq_mod, ← sshiftRight_eq_ofInt]
  rfl

end Exec

/-! ### The statements -/

/-- Settles O20: each result is the product or floor quotient by the power of two the `shamt` field names. -/
theorem shiftImmediate : Obligations.ShiftImmediate :=
  ⟨specialEntry_withFieldsOf (.sll 0 0 0) rfl rfl, specialEntry_withFieldsOf (.srl 0 0 0) rfl rfl,
    specialEntry_withFieldsOf (.sra 0 0 0) rfl rfl,
    fun rt rd sh s => ⟨onlyReg_of_result (exec_sll rt rd sh s), onlyReg_of_result (exec_srl rt rd sh s),
      onlyReg_of_result (exec_sra rt rd sh s)⟩⟩

/-- Settles O21: the same with the low five bits of the first register as the exponent. -/
theorem shiftVariable : Obligations.ShiftVariable :=
  ⟨specialEntry_withFieldsOf (.sllv 0 0 0) rfl rfl, specialEntry_withFieldsOf (.srlv 0 0 0) rfl rfl,
    specialEntry_withFieldsOf (.srav 0 0 0) rfl rfl,
    fun rs rt rd s => ⟨onlyReg_of_result (exec_sllv rs rt rd s), onlyReg_of_result (exec_srlv rs rt rd s),
      onlyReg_of_result (exec_srav rs rt rd s)⟩⟩

end Sys2Proof.Machine

/-! ## Multiply, divide, HI and LO (43_muldiv.md)

HI and LO are the halves of the exact product, or remainder and quotient; every instruction but MFHI and MFLO writes nothing
else. -/

namespace Sys2Proof.Machine

/-! ### The product and its halves (R166, R167) -/

theorem hiHalf_append_loHalf (p : BitVec 64) : hiHalf p ++ loHalf p = p :=
  (BitVec.extractLsb'_append_extractLsb'_eq_extractLsb' (by rfl)).trans BitVec.extractLsb'_eq_self

/-- The halves of a product read as one signed number: only the high half carries the sign. -/
theorem halves_toInt (p : BitVec 64) : (hiHalf p).toInt * 2 ^ 32 + ((loHalf p).toNat : Int) = p.toInt := by
  conv_rhs => rw [← hiHalf_append_loHalf p, BitVec.toInt_append]
  rw [if_neg (by decide), Int.mul_comm]

theorem halves_toNat (p : BitVec 64) : (hiHalf p).toNat * 2 ^ 32 + (loHalf p).toNat = p.toNat := by
  conv_rhs => rw [← hiHalf_append_loHalf p, BitVec.toNat_append]
  rw [← Nat.shiftLeft_add_eq_or_of_lt (loHalf p).isLt, Nat.shiftLeft_eq]

/-- No signed product overflows 64 bits: it lies between -2^62 and 2^62. -/
theorem mulSigned_toInt (a b : Word) : (mulSigned a b).toInt = a.toInt * b.toInt :=
  BitVec.toInt_ofInt_eq_self (by decide)
    (Int.le_trans (by decide) BitVec.le_toInt_mul_toInt) (Int.lt_of_le_of_lt BitVec.toInt_mul_toInt_le (by decide))

theorem mulUnsigned_toNat (a b : Word) : (mulUnsigned a b).toNat = a.toNat * b.toNat := by
  rw [mulUnsigned, BitVec.toNat_ofNat, Nat.mod_eq_of_lt BitVec.toNat_mul_toNat_lt]

/-! ### Quotient and remainder (R168, R169) -/

theorem quotSigned_eq_sdiv (a b : Word) : quotSigned a b = a.sdiv b := by
  apply BitVec.eq_of_toInt_eq
  rw [quotSigned, BitVec.toInt_ofInt, BitVec.toInt_sdiv]

/-- The truncated quotient fits in a word, but for the one of -2^31 by -1. -/
theorem quotSigned_toInt {a b : Word} (h : ¬(a.toInt = -2 ^ 31 ∧ b.toInt = -1)) :
    (quotSigned a b).toInt = a.toInt.tdiv b.toInt := by
  rw [quotSigned_eq_sdiv]
  refine BitVec.toInt_sdiv_of_ne_or_ne a b (not_and_or.mp fun ⟨ha, hb⟩ => h ⟨?_, ?_⟩)
  · rw [ha]; rfl
  · rw [hb]; rfl

theorem remSigned_toInt (a b : Word) : (remSigned a b).toInt = a.toInt.tmod b.toInt := by
  rw [remSigned, ← BitVec.toInt_srem, BitVec.ofInt_toInt]

section MinByMinusOne

variable {a b : Word} (ha : a.toInt = -2 ^ 31) (hb : b.toInt = -1)
include ha hb

/-- The one quotient that does not fit wraps (D11). -/
theorem quotSigned_min_minusOne : quotSigned a b = 0x80000000 := by
  rw [quotSigned, ha, hb]
  rfl

theorem remSigned_min_minusOne : remSigned a b = 0 := by
  rw [remSigned, ha, hb]
  rfl

end MinByMinusOne

theorem quotUnsigned_toNat (a b : Word) : (quotUnsigned a b).toNat = a.toNat / b.toNat := by
  rw [quotUnsigned, ← BitVec.udiv_def, BitVec.toNat_udiv]

theorem remUnsigned_toNat (a b : Word) : (remUnsigned a b).toNat = a.toNat % b.toNat := by
  rw [remUnsigned, ← BitVec.umod_def, BitVec.toNat_umod]

/-- The remainder of a truncating division is zero or has the sign of the dividend. -/
theorem tmod_neg_iff {a b : Int} (h : a.tmod b ≠ 0) : a.tmod b < 0 ↔ a < 0 := by
  have hdvd : ¬b ∣ a := mt Int.tmod_eq_zero_of_dvd h
  rw [← Int.sign_eq_neg_one_iff_neg, Int.sign_tmod, if_neg hdvd, Int.sign_eq_neg_one_iff_neg]

/-! ### The instructions, by what they write (R166 to R173) -/

@[simp] theorem setHiLo_hi (s : State) (h l : Word) : (s.setHiLo h l).hi = h := rfl
@[simp] theorem setHiLo_lo (s : State) (h l : Word) : (s.setHiLo h l).lo = l := rfl

section Exec

variable (rs rt r : Reg) (s : State)

theorem exec_mult : exec (.mult rs rt) s =
    .next (s.setHiLo (hiHalf (mulSigned (s.readReg rs) (s.readReg rt))) (loHalf (mulSigned (s.readReg rs) (s.readReg rt)))) :=
  rfl

theorem exec_multu : exec (.multu rs rt) s =
    .next (s.setHiLo (hiHalf (mulUnsigned (s.readReg rs) (s.readReg rt)))
      (loHalf (mulUnsigned (s.readReg rs) (s.readReg rt)))) :=
  rfl

theorem exec_mfhi : exec (.mfhi r) s = s.result r s.hi := rfl

theorem exec_mflo : exec (.mflo r) s = s.result r s.lo := rfl

theorem exec_mthi : exec (.mthi r) s = .next { s with hi := s.readReg r } := rfl

theorem exec_mtlo : exec (.mtlo r) s = .next { s with lo := s.readReg r } := rfl

variable {rs rt s}

theorem exec_div_of_zero (h : s.readReg rt = 0) : exec (.div rs rt) s = .next s := if_pos h

theorem exec_div_of_ne_zero (h : s.readReg rt ≠ 0) : exec (.div rs rt) s =
    .next (s.setHiLo (remSigned (s.readReg rs) (s.readReg rt)) (quotSigned (s.readReg rs) (s.readReg rt))) := if_neg h

theorem exec_divu_of_zero (h : s.readReg rt = 0) : exec (.divu rs rt) s = .next s := if_pos h

theorem exec_divu_of_ne_zero (h : s.readReg rt ≠ 0) : exec (.divu rs rt) s =
    .next (s.setHiLo (remUnsigned (s.readReg rs) (s.readReg rt)) (quotUnsigned (s.readReg rs) (s.readReg rt))) := if_neg h

end Exec

/-! ### The statements -/

/-- Settles O22: the halves put together are the 64-bit product, and that is exact. -/
theorem multiplyExact : Obligations.MultiplyExact :=
  ⟨specialEntry_withFieldsOf (.mult 0 0) rfl rfl, specialEntry_withFieldsOf (.multu 0 0) rfl rfl,
    fun rs rt s => ⟨⟨_, exec_mult rs rt s, rfl, (halves_toInt _).trans (mulSigned_toInt _ _)⟩,
      ⟨_, exec_multu rs rt s, rfl, (halves_toNat _).trans (mulUnsigned_toNat _ _)⟩⟩⟩

/-- Settles O23: quotient and remainder are the truncating ones of the integers, unless the quotient is 2^31. -/
theorem signedDivide : Obligations.SignedDivide := by
  refine ⟨specialEntry_withFieldsOf (.div 0 0) rfl rfl, fun rs rt s => ?_⟩
  intro a b
  have hzero : s.readReg rt = 0 ↔ b = 0 := BitVec.toInt_inj.symm
  refine ⟨fun hb => exec_div_of_zero (hzero.mpr hb), fun hb hfits => ?fits, fun ha hb => ?minByMinusOne⟩
  case fits =>
    have hquot : (quotSigned (s.readReg rs) (s.readReg rt)).toInt = a.tdiv b := quotSigned_toInt hfits
    have hrem : (remSigned (s.readReg rs) (s.readReg rt)).toInt = a.tmod b := remSigned_toInt _ _
    refine ⟨_, exec_div_of_ne_zero (mt hzero.mp hb), rfl, ?identity, ?size, ?sign⟩ <;>
      simp only [setHiLo_hi, setHiLo_lo, hquot, hrem]
    case identity => exact (Int.tdiv_mul_add_tmod a b).symm
    case size => rw [Int.natAbs_tmod]; exact Nat.mod_lt _ (Int.natAbs_pos.mpr hb)
    case sign => exact tmod_neg_iff
  case minByMinusOne =>
    have hne : s.readReg rt ≠ 0 := mt hzero.mp (by rw [hb]; decide)
    exact ⟨_, exec_div_of_ne_zero hne, rfl, quotSigned_min_minusOne ha hb, remSigned_min_minusOne ha hb⟩

/-- Settles O24: quotient and remainder are those of the natural numbers. -/
theorem unsignedDivide : Obligations.UnsignedDivide := by
  refine ⟨specialEntry_withFieldsOf (.divu 0 0) rfl rfl, fun rs rt s => ⟨exec_divu_of_zero, fun hne => ?_⟩⟩
  have hpos : 0 < (s.readReg rt).toNat := Nat.pos_of_ne_zero fun h => hne (BitVec.eq_of_toNat_eq h)
  refine ⟨_, exec_divu_of_ne_zero hne, rfl, ?identity, ?size⟩ <;>
    simp only [setHiLo_hi, setHiLo_lo, quotUnsigned_toNat, remUnsigned_toNat]
  case identity => exact (Nat.div_add_mod' _ _).symm
  case size => exact Nat.mod_lt _ hpos

/-- Settles O25: MFHI and MFLO write a result, MTHI and MTLO one field. -/
theorem hiLoMoves : Obligations.HiLoMoves :=
  ⟨specialEntry_withFieldsOf (.mfhi 0) rfl rfl, specialEntry_withFieldsOf (.mflo 0) rfl rfl,
    specialEntry_withFieldsOf (.mthi 0) rfl rfl, specialEntry_withFieldsOf (.mtlo 0) rfl rfl,
    fun r s => ⟨onlyReg_of_result (exec_mfhi r s), onlyReg_of_result (exec_mflo r s), exec_mthi r s, exec_mtlo r s⟩⟩

end Sys2Proof.Machine

/-! ## Control transfers and what they leave pending (44_branch_jump.md)

Outside a delay slot a transfer writes the slot state, and a linking one its link register; the step after it completes the
transfer. Last the loads in the slot of a taken transfer, which policy lineage can skip. -/

namespace Sys2Proof.Machine

/-! ### Words by their rt (30_encoding.md R102, R107) -/

/-- Every word with op 1 and the rt of a REGIMM row decodes to that row's instruction, with the word's fields as operands. -/
theorem regimmEntry_withFieldsOf {rt : BitVec 5} (i : Instr) (hm : i.row.mask = 0xFC1F0000#32)
    (hb : 1#6 ++ 0#5 ++ rt ++ 0#16 = i.row.bits) : RegimmEntry rt i.withFieldsOf := fun w hop hrt =>
  decode_of_selects (by rw [TableRow.selects, hm, keyBits_regimm, hop, hrt, hb, beq_self_eq_true])

/-! ### Targets and conditions (R180, R190 to R195) -/

/-- A jump target keeps the top four bits of pc and counts words. -/
theorem jumpTarget_toNat (s : State) (target : BitVec 26) :
    (s.jumpTarget target).toNat = s.pc.toNat / 2 ^ 28 * 2 ^ 28 + target.toNat * 4 := by
  have htop : s.pc.toNat / 2 ^ 28 < 2 ^ 4 := by have := s.pc.isLt; omega
  rw [State.jumpTarget, BitVec.toNat_append, BitVec.toNat_append, BitVec.extractLsb'_toNat, Nat.shiftRight_eq_div_pow,
    Nat.mod_eq_of_lt htop, ← Nat.shiftLeft_add_eq_or_of_lt target.isLt, BitVec.toNat_ofNat, Nat.zero_mod, Nat.or_zero,
    Nat.shiftLeft_eq, Nat.shiftLeft_eq]
  omega

theorem isNegative_iff (v : Word) : isNegative v = true ↔ v.toInt < 0 := decide_eq_true_iff

theorem not_isNegative_iff (v : Word) : (!isNegative v) = true ↔ 0 ≤ v.toInt := by
  rw [Bool.not_eq_true', ← Bool.not_eq_true, isNegative_iff, not_lt]

theorem toInt_eq_zero_iff (v : Word) : v = 0#32 ↔ v.toInt = 0 := BitVec.toInt_inj.symm

theorem isNegative_or_zero_iff (v : Word) : (isNegative v || v == 0#32) = true ↔ v.toInt ≤ 0 := by
  rw [Bool.or_eq_true, isNegative_iff, beq_iff_eq, toInt_eq_zero_iff, le_iff_lt_or_eq]

theorem not_isNegative_and_ne_zero_iff (v : Word) : (!isNegative v && v != 0#32) = true ↔ 0 < v.toInt := by
  rw [Bool.and_eq_true, not_isNegative_iff, bne_iff_ne, ne_eq, toInt_eq_zero_iff, lt_iff_le_and_ne, ne_comm]

/-! ### What a transfer outside a delay slot leaves (R181, R187) -/

section OutsideSlot

variable {s : State} {o : Host.Outcome State Fault Refusal} {imm : Half} (h : s.inDelaySlot = false)

include h

theorem transfer_of_not_inDelaySlot (d : Slot) : s.transfer d = .next { s with slot := d } := by
  simp only [State.transfer, h, Bool.false_eq_true, if_false, State.setSlot]

theorem onlyReg_of_transferLink {r : Reg} {d : Slot} (ho : o = s.transferLink r d) :
    ∃ t, o = .next t ∧ OnlyReg { s with slot := d } t r (s.pc + 4) :=
  ⟨_, ho.trans (transfer_of_not_inDelaySlot (s := s.writeReg r s.linkValue) h d), onlyReg_writeReg { s with slot := d } r _⟩

/-- A conditional branch, with the truth value of its condition read as a proposition. -/
theorem branchIf_of_iff {c : Bool} {p : Prop} [Decidable p] (hc : c = true ↔ p) :
    s.branchIf c imm =
      .next { s with slot := if p then .taken (BitVec.ofInt 32 (s.pc.toInt + 4 * imm.toInt)) else .notTaken } := by
  rw [State.branchIf, State.branchSlot, transfer_of_not_inDelaySlot h, branchTarget_eq]
  simp only [hc]

theorem onlyReg_of_branchLinkIf_taken {c : Bool} (ho : o = s.branchLinkIf c imm) (hc : c = true) :
    ∃ t, o = .next t ∧
      OnlyReg { s with slot := .taken (BitVec.ofInt 32 (s.pc.toInt + 4 * imm.toInt)) } t 31 (s.pc + 4) := by
  refine onlyReg_of_transferLink h (ho.trans ?_)
  rw [State.branchLinkIf, State.branchSlot, hc, branchTarget_eq]
  rfl

theorem onlyReg_of_branchLinkIf_notTaken {c : Bool} (ho : o = s.branchLinkIf c imm) (hl : s.params.linkWhenNotTaken = true)
    (hc : ¬c = true) : ∃ t, o = .next t ∧ OnlyReg { s with slot := .notTaken } t 31 (s.pc + 4) := by
  refine onlyReg_of_transferLink h (ho.trans ?_)
  simp only [State.branchLinkIf, State.branchSlot, hl, Bool.or_true, if_true, if_neg hc]

theorem branchLinkIf_notTaken_of_no_link {c : Bool} (hl : s.params.linkWhenNotTaken = false) (hc : ¬c = true) :
    s.branchLinkIf c imm = .next { s with slot := .notTaken } := by
  simp only [State.branchLinkIf, State.branchIf, State.branchSlot, hl, Bool.or_false, if_neg hc,
    transfer_of_not_inDelaySlot h]

end OutsideSlot

/-! ### The statements about transfers -/

/-- Settles O26: each jump is a transfer to its target, with or without a link. -/
theorem jumpsRecordTheirTarget : Obligations.JumpsRecordTheirTarget := by
  refine ⟨primaryEntry_withFieldsOf (.j 0) rfl rfl, primaryEntry_withFieldsOf (.jal 0) rfl rfl,
    specialEntry_withFieldsOf (.jr 0) rfl rfl, specialEntry_withFieldsOf (.jalr 0 0) rfl rfl,
    fun s h => ⟨fun target => ?absolute, fun rs => transfer_of_not_inDelaySlot h _,
      fun rs rd => onlyReg_of_transferLink h rfl⟩⟩
  case absolute =>
    exact ⟨s.jumpTarget target, jumpTarget_toNat s target, transfer_of_not_inDelaySlot h _, onlyReg_of_transferLink h rfl⟩

/-- Settles O27: the six are one branch, on six conditions. -/
theorem conditionalBranches : Obligations.ConditionalBranches :=
  ⟨primaryEntry_withFieldsOf (.beq 0 0 0) rfl rfl, primaryEntry_withFieldsOf (.bne 0 0 0) rfl rfl,
    primaryEntry_withFieldsOf (.blez 0 0) rfl rfl, primaryEntry_withFieldsOf (.bgtz 0 0) rfl rfl,
    regimmEntry_withFieldsOf (.bltz 0 0) rfl rfl, regimmEntry_withFieldsOf (.bgez 0 0) rfl rfl,
    fun _ _ _ _ h => ⟨branchIf_of_iff h beq_iff_eq, branchIf_of_iff h bne_iff_ne,
      branchIf_of_iff h (isNegative_or_zero_iff _), branchIf_of_iff h (not_isNegative_and_ne_zero_iff _),
      branchIf_of_iff h (isNegative_iff _), branchIf_of_iff h (not_isNegative_iff _)⟩⟩

/-- Settles O28: the condition is on the old register, whatever is linked after it. -/
theorem linkingBranches : Obligations.LinkingBranches := by
  refine ⟨regimmEntry_withFieldsOf (.bltzal 0 0) rfl rfl, regimmEntry_withFieldsOf (.bgezal 0 0) rfl rfl,
    fun rs imm s h => ?_⟩
  intro a x
  have hneg : isNegative (s.readReg rs) = true ↔ x < 0 := isNegative_iff _
  have hnonneg : (!isNegative (s.readReg rs)) = true ↔ 0 ≤ x := not_isNegative_iff _
  have hnotNeg (hx : 0 ≤ x) : ¬isNegative (s.readReg rs) = true := mt hneg.mp (not_lt.mpr hx)
  have hnotNonneg (hx : x < 0) : ¬(!isNegative (s.readReg rs)) = true := mt hnonneg.mp (not_le.mpr hx)
  refine ⟨fun hx => onlyReg_of_branchLinkIf_taken h rfl (hneg.mpr hx),
    fun hx => onlyReg_of_branchLinkIf_taken h rfl (hnonneg.mpr hx), fun hl => ⟨fun hx => ?_, fun hx => ?_⟩,
    fun hl => ⟨fun hx => ?_, fun hx => ?_⟩⟩
  · exact onlyReg_of_branchLinkIf_notTaken h rfl hl (hnotNeg hx)
  · exact onlyReg_of_branchLinkIf_notTaken h rfl hl (hnotNonneg hx)
  · exact branchLinkIf_notTaken_of_no_link h hl (hnotNeg hx)
  · exact branchLinkIf_notTaken_of_no_link h hl (hnotNonneg hx)

/-! ### The slot of a transfer (R181, R197) -/

/-- An instruction in a delay slot leaves no slot state: a transfer there stops (R196). -/
theorem exec_slot_of_inDelaySlot {s u : State} {i : Instr} (hs : s.slot = .none) (hd : s.inDelaySlot = true)
    (hu : exec i s = .next u) : u.slot = .none := by
  by_contra hne
  cases hd.symm.trans ((exec_fine i s u hu).slot hs hne).1

/-- Where the transfer that an instruction has consumed leads, at the end of it. -/
theorem completeTransfer_pc (s : State) :
    s.completeTransfer.pc = if s.ctx.trapped then s.pc else match s.ctx.consumed with | .taken t => t | _ => s.pc := by
  unfold State.completeTransfer
  cases s.ctx.trapped with
  | true => rfl
  | false => cases s.ctx.consumed <;> rfl

/-- Completing a transfer writes pc alone. -/
theorem completeTransfer_eq (s : State) : s.completeTransfer = s.setPc s.completeTransfer.pc := by
  unfold State.completeTransfer
  split
  · rfl
  · split <;> rfl

/-- Settles O8: the slot state is consumed, and with nothing due the end of the step moves pc alone. -/
theorem delaySlotCompletes : Obligations.DelaySlotCompletes := by
  intro s u i ha hd hn hslot hu hq
  have hstep : step s = .next (u.setPc u.completeTransfer.pc).endCtx := by
    rw [(stepRunsDecodedInstruction s i ha hd hn).1 u hu, endStep_of_quiet hq, ← completeTransfer_eq]
  have hconsumed : u.ctx.consumed = s.slot := (exec_fine i _ u hu).keeps.consumed
  have hin : s.executing.inDelaySlot = true := bne_iff_ne.mpr hslot
  have hnone : u.slot = .none := exec_slot_of_inDelaySlot rfl hin hu
  refine ⟨_, hstep, hnone, rfl, rfl, ?_⟩
  change u.completeTransfer.pc = _
  rw [completeTransfer_pc, hconsumed]
  cases ht : u.ctx.trapped with
  | true => rfl
  | false =>
    have hpc : u.pc = s.pc + 4 := (exec_pcKept i _ u hu ht).1
    exact hpc ▸ rfl

/-! ### What an evaluation does not look at (60_exceptions.md R259, R260, R320) -/

/-- `t` is `s` but for fields that neither the counters nor the interrupt condition nor a fetch depends on. -/
def SameForEvaluation (s t : State) : Prop :=
  ∃ g p l c, t = { s with gpr := g, pc := p, loadDelay := l, spuCalls := c }

namespace SameForEvaluation

theorem refl (s : State) : SameForEvaluation s s := ⟨_, _, _, _, rfl⟩

theorem setPc (s : State) (a : Word) : SameForEvaluation s (s.setPc a) := ⟨_, _, _, _, rfl⟩

variable {s t : State}

theorem fireIfDue (h : SameForEvaluation s t) (i : Fin 4) : SameForEvaluation (s.fireIfDue i) (t.fireIfDue i) := by
  obtain ⟨g, p, l, c, rfl⟩ := h
  refine ⟨g, p, l, c, ?_⟩
  unfold State.fireIfDue
  dsimp only
  split
  · split <;> rfl
  · rfl

theorem catchUp (h : SameForEvaluation s t) : SameForEvaluation s.catchUp t.catchUp :=
  (((h.fireIfDue 3).fireIfDue 0).fireIfDue 1).fireIfDue 2

theorem interruptCondition (h : SameForEvaluation s t) : t.interruptCondition = s.interruptCondition := by
  obtain ⟨g, p, l, c, rfl⟩ := h
  rfl

theorem fetch (h : SameForEvaluation s t) (a : Word) : t.fetch a = s.fetch a := by
  obtain ⟨g, p, l, c, rfl⟩ := h
  rfl

theorem frame (h : SameForEvaluation s t) : t.slot = s.slot ∧ t.ctx = s.ctx ∧ t.params = s.params := by
  obtain ⟨g, p, l, c, rfl⟩ := h
  exact ⟨rfl, rfl, rfl⟩

theorem memRead (s : State) (a : Word) (w : Width) : SameForEvaluation s (s.memRead a w).2 := by
  rcases memRead_state s a w with e | e
  · exact e.symm ▸ refl s
  · exact ⟨_, _, _, _, e⟩

theorem finishLoad (h : SameForEvaluation s t) (rt : Reg) (v : Word) (merging : Bool) :
    SameForEvaluation s (t.finishLoad rt v merging) := by
  obtain ⟨g, p, l, c, rfl⟩ := h
  exact ⟨_, _, _, _, rfl⟩

end SameForEvaluation

/-- Behind the slot of a taken transfer the evaluation point is reached, at the target (R258). -/
theorem endStep_of_takenSlot {u : State} {t : Word} (hs : u.slot = .none) (hc : u.ctx.consumed = .taken t)
    (ht : u.ctx.trapped = false) : u.endStep = (u.setPc t).evaluate.endCtx := by
  have hcomplete : u.completeTransfer = u.setPc t := by
    simp only [State.completeTransfer, ht, hc, Bool.false_eq_true, if_false]
  simp only [State.endStep, hcomplete, setPc_ctx, setPc_slot, hs, hc, evaluationPoint, if_true]

/-- An interrupt at the end of a step that has consumed a taken transfer, with no firmware agent and no load held back: the
handler finds the registers as the instruction left them, the target in EPC and no load record (R259, R262; R360). -/
theorem endStep_of_interrupt {u : State} {t : Word} (hs : u.slot = .none) (hc : u.ctx.consumed = .taken t)
    (ht : u.ctx.trapped = false) (hh : u.ctx.held = none) (hf : u.params.firmware = .absent)
    (hi : u.catchUp.interruptCondition = true) (r : Reg) :
    u.endStep.readReg r = u.readReg r ∧ u.endStep.loadDelay = none ∧ u.endStep.readCop0 epcReg = t := by
  have hi' : (u.setPc t).catchUp.interruptCondition = true :=
    (SameForEvaluation.setPc u t).catchUp.interruptCondition.trans hi
  have heval := ((evaluate_cases (u.setPc t)).resolve_left fun h => by cases h.1.symm.trans hi').2
  have hv := catchUp_only (u.setPc t)
  generalize (u.setPc t).catchUp = v at heval hv
  have htrap : TrapEntered v (v.raise .interrupt false v.pc) 0 true false v.pc :=
    trapEntered_raise v .interrupt false v.pc (hv.params ▸ hf)
  have hland : v.landHeld = v := landHeld_none (hv.ctx ▸ hh)
  rw [endStep_of_takenSlot hs hc ht, heval, endCtx_readReg, endCtx_loadDelay, endCtx_readCop0, htrap.regs, hland,
    hv.readReg, htrap.epc, hv.pc, (raise_only v _ _ _).2.1]
  exact ⟨rfl, rfl, rfl⟩

/-! ### The loads that policy lineage skips (R199, 70_reset_and_hazards.md R360) -/

theorem mergesInto_iff (r : Reg) (n : Instr) :
    mergesInto r n = true ↔ ∃ base offset, n = .lwl base r offset ∨ n = .lwr base r offset := by
  cases n <;> simp [mergesInto]

theorem isHazard_iff (p : Params) (r : Reg) (merging : Bool) (n : Instr) :
    isHazard p r merging n = true ↔ r ≠ 0 ∧ r ∈ regsRead p n ∧
      ¬(merging = true ∧ ∃ base offset, n = .lwl base r offset ∨ n = .lwr base r offset) := by
  simp only [isHazard, Bool.and_eq_true, bne_iff_ne, List.contains_iff_mem, Bool.not_eq_true', ← Bool.not_eq_true,
    mergesInto_iff, and_assoc]
  rfl

theorem lineageSkips_iff (s : State) (r : Reg) (merging : Bool) :
    s.lineageSkips r merging = true ↔ s.params.loadDelay = .lineage ∧ s.catchUp.interruptCondition = false ∧
      ∃ t n, s.ctx.consumed = .taken t ∧ decode (s.catchUp.fetch t) = .instr n ∧ wordAligned t = true ∧
        isHazard s.params r merging n = true ∧ regWritten n = some r := by
  unfold State.lineageSkips
  split
  case h_1 t hp hc =>
    cases hd : decode (s.catchUp.fetch t) with
    | instr n => simp [hp, hc, hd, and_assoc]
    | noOp why => simp [hc, hd]
  case h_2 hne =>
    constructor
    · nofun
    · rintro ⟨hp, -, t, n, hc, -⟩
      exact absurd hc (hne t hp)

theorem exec_lb (base rt : Reg) (offset : Half) (s : State) :
    exec (.lb base rt offset) s = s.loadInto base rt offset .byte fun v => sext8 (v.setWidth 8) := rfl

theorem exec_lbu (base rt : Reg) (offset : Half) (s : State) :
    exec (.lbu base rt offset) s = s.loadInto base rt offset .byte fun v => (v.setWidth 8).setWidth 32 := rfl

/-- Every load-class instruction is one of three operations; a wider load than a byte asks for alignment. -/
theorem exec_of_loads {i : Instr} {r : Reg} {merging : Bool} (hl : i.loads = some (r, merging)) (s : State) :
    (merging = false ∧ ∃ base offset w ext, exec i s = s.loadInto base r offset w ext ∧
      (w = .byte ∨ i.alignedAccess = some (w, base, offset))) ∨
    (merging = true ∧ ∃ base offset merge, exec i s = s.loadMerge base r offset merge) ∨
    (merging = false ∧ ∃ rd, exec i s = s.moveFromCop0 r rd) := by
  cases i with
  | lb => cases hl; exact .inl ⟨rfl, _, _, _, _, exec_lb _ _ _ s, .inl rfl⟩
  | lbu => cases hl; exact .inl ⟨rfl, _, _, _, _, exec_lbu _ _ _ s, .inl rfl⟩
  | lh => cases hl; exact .inl ⟨rfl, _, _, _, _, exec_lh _ _ _ s, .inr rfl⟩
  | lhu => cases hl; exact .inl ⟨rfl, _, _, _, _, exec_lhu _ _ _ s, .inr rfl⟩
  | lw => cases hl; exact .inl ⟨rfl, _, _, _, _, exec_lw _ _ _ s, .inr rfl⟩
  | lwl | lwr => cases hl; exact .inr (.inl ⟨rfl, _, _, _, rfl⟩)
  | mfc0 | cfc0 => cases hl; exact .inr (.inr ⟨rfl, _, rfl⟩)
  | _ => cases hl

/-- A load goes without an address error where it is aligned, or where the policy knows none (20_memory.md R77). -/
theorem accessKind_ne_addressError {s : State} {a : Word} {w : Width}
    (h : alignedFor w a = true ∨ s.params.misaligned ≠ .addressError) : s.accessKind a w ≠ .addressError := by
  unfold State.accessKind
  split
  · nofun
  · next hal =>
    cases hm : s.params.misaligned with
    | refuse => nofun
    | addressError => exact absurd hm (h.resolve_left hal)
    | bytewise => dsimp only; split <;> nofun

theorem loadInto_skipped {s : State} {base rt : Reg} {offset : Half} {w : Width} {ext : Word → Word}
    (hk : s.lineageSkips rt false = true) (ha : s.accessKind (s.effAddr base offset) w ≠ .addressError) :
    s.loadInto base rt offset w ext = .next s := by
  unfold State.loadInto
  cases he : s.accessKind (s.effAddr base offset) w with
  | addressError => exact absurd he ha
  | aligned | bytewise | stop => simp only [he, hk]

/-- R199: a skipped load does nothing at all. -/
theorem exec_of_lineageSkips {i : Instr} {r : Reg} {merging : Bool} {s : State} (hl : i.loads = some (r, merging))
    (hk : s.lineageSkips r merging = true)
    (ha : ∀ w b o, i.alignedAccess = some (w, b, o) →
      alignedFor w (s.effAddr b o) = true ∨ s.params.misaligned ≠ .addressError) :
    exec i s = .next s := by
  rcases exec_of_loads hl s with ⟨rfl, base, offset, w, ext, he, hw⟩ | ⟨rfl, base, offset, merge, he⟩ | ⟨rfl, rd, he⟩ <;>
    rw [he]
  · refine loadInto_skipped hk (accessKind_ne_addressError ?_)
    rcases hw with rfl | hw
    · exact .inl (by simp [alignedFor, widthBytes, Nat.mod_one])
    · exact ha w base offset hw
  · exact if_pos hk
  · exact if_pos hk

/-- What a load-class instruction leaves when it ends without an exception: nothing that an evaluation looks at, and, unless it
was skipped, its record. -/
def LoadCompleted (s : State) (r : Reg) (merging : Bool) (o : Host.Outcome State Fault Refusal) : Prop :=
  ∀ t, o = .next t → t.ctx.trapped = false → SameForEvaluation s t ∧
    (s.lineageSkips r merging = false → r ≠ 0 → t.loadDelay = some ⟨r, s.readReg r, merging, slotTaken s.ctx.consumed⟩)

theorem LoadCompleted.skipped {s : State} {r : Reg} {merging : Bool} (hk : s.lineageSkips r merging = true) :
    LoadCompleted s r merging (.next s) := by
  rintro t ⟨⟩ -
  exact ⟨.refl s, fun h => by cases h.symm.trans hk⟩

theorem LoadCompleted.finished {s u : State} {r : Reg} (hu : SameForEvaluation s u) (hg : u.readReg r = s.readReg r)
    (hc : u.ctx = s.ctx) (v : Word) (merging : Bool) : LoadCompleted s r merging (.next (u.finishLoad r v merging)) := by
  rintro t ⟨⟩ -
  exact ⟨hu.finishLoad r v merging, fun _ hr => (if_neg hr).trans (by rw [hg, hc])⟩

theorem LoadCompleted.memRead (s : State) (r : Reg) (a : Word) (w : Width) (v : Word) (merging : Bool) :
    LoadCompleted s r merging (.next ((s.memRead a w).2.finishLoad r v merging)) :=
  .finished (.memRead s a w) ((memRead_only s a w).readReg r) (memRead_only s a w).ctx v merging

theorem loadCompleted_loadInto (s : State) (base r : Reg) (offset : Half) (w : Width) (ext : Word → Word) :
    LoadCompleted s r false (s.loadInto base r offset w ext) := by
  unfold State.loadInto
  dsimp only
  split
  case h_1 =>
    rintro t ⟨⟩ ht
    rw [State.raiseAddress, State.raiseHere, (raise_only _ _ _ _).2.2.1] at ht
    cases ht
  case h_2 hk _ => exact .skipped hk
  case h_3 => exact .memRead s r _ w _ false
  case h_4 => exact .finished (.refl s) rfl rfl _ false
  case h_5 => rintro t ⟨⟩

/-- Every load-class instruction, by the operation it is. -/
theorem exec_loadCompleted {i : Instr} {r : Reg} {merging : Bool} (hl : i.loads = some (r, merging)) (s : State) :
    LoadCompleted s r merging (exec i s) := by
  rcases exec_of_loads hl s with ⟨rfl, base, offset, w, ext, he, -⟩ | ⟨rfl, base, offset, merge, he⟩ | ⟨rfl, rd, he⟩ <;>
    rw [he]
  · exact loadCompleted_loadInto s base r offset w ext
  · unfold State.loadMerge
    split
    next hk => exact .skipped hk
    next => exact .memRead s r _ .word _ true
  · unfold State.moveFromCop0
    split
    next hk => exact .skipped hk
    next => exact .finished (.refl s) rfl rfl _ false

/-- Settles O59: the predicate read as R199 puts it; a completed load leaves the evaluation as it would have been. -/
theorem lineageSkipsLoads : Obligations.LineageSkipsLoads := by
  intro s r merging
  refine ⟨?skips, fun i hl => ⟨exec_of_lineageSkips hl, fun t ht htrap => ?completes⟩,
    fun i u hl hu htrap hslot hheld hfw hint t hc => ?interrupted⟩
  case skips =>
    simp only [lineageSkips_iff, isHazard_iff, wordAligned, beq_iff_eq]
    constructor
    · rintro ⟨hp, hi, t, n, hc, hd, hal, ⟨hr, hread, hpair⟩, hw⟩
      exact ⟨hp, hr, hi, t, n, hc, hal, hd, hread, hw, hpair⟩
    · rintro ⟨hp, hr, hi, t, n, hc, hal, hd, hread, hw, hpair⟩
      exact ⟨hp, hi, t, n, hc, hd, hal, ⟨hr, hread, hpair⟩, hw⟩
  case completes =>
    obtain ⟨hsame, hrecord⟩ := exec_loadCompleted hl s t ht htrap
    exact ⟨hrecord, hsame.catchUp.interruptCondition, hsame.catchUp.fetch⟩
  case interrupted =>
    obtain ⟨hsame, -⟩ := exec_loadCompleted hl s u hu htrap
    have hui : u.catchUp.interruptCondition = true := hsame.catchUp.interruptCondition.trans hint
    obtain ⟨hs, hctx, hp⟩ := hsame.frame
    exact endStep_of_interrupt (hs.trans hslot) (hctx ▸ hc) htrap (hctx ▸ hheld) (hp ▸ hfw) hui r

end Sys2Proof.Machine

/-! ## Loads and stores (45_load_store.md)

Each load and store is one access at the effective address, or for the unaligned instructions one at the enclosing aligned word;
what the bus answers in plain storage, and the merge tables byte by byte, then give the statements. -/

namespace Sys2Proof.Machine

/-! ### The merge tables, byte by byte (R217, R218, R224, R225) -/

section Merge

variable {x y m : Word} {k j : Nat}

/-- A word has four bytes. -/
theorem byteOfWord_of_ge (hj : 4 ≤ j) : byteOfWord x j = 0#8 := by
  apply BitVec.eq_of_getLsbD_eq
  intro i _
  rw [byteOfWord, BitVec.getLsbD_extractLsb', BitVec.getLsbD_of_ge x (8 * j + i) (by omega), Bool.and_false,
    BitVec.getLsbD_zero]

/-- A shift by whole bytes moves the bytes. -/
theorem byteOfWord_shiftLeft (n : Nat) (hj : j < 4) :
    byteOfWord (x <<< (8 * n)) j = if j < n then 0#8 else byteOfWord x (j - n) := by
  unfold byteOfWord
  ext i hi
  rw [BitVec.getElem_extractLsb', BitVec.getLsbD_shiftLeft]
  split_ifs with hjn
  · simp [show 8 * j + i < 8 * n by omega]
  · simp [show 8 * j + i < 32 by omega, show ¬ 8 * j + i < 8 * n by omega,
      show 8 * j + i - 8 * n = 8 * (j - n) + i by omega]

theorem byteOfWord_ushiftRight (n : Nat) : byteOfWord (x >>> (8 * n)) j = byteOfWord x (j + n) := by
  unfold byteOfWord
  ext i hi
  rw [BitVec.getElem_extractLsb', BitVec.getElem_extractLsb', BitVec.getLsbD_ushiftRight]
  congr 1
  omega

/-- A byte of a merge comes from `y` where the mask clears it, and from `x` where the mask keeps it and `y` has nothing. -/
theorem byteOfWord_merge {p : Prop} [Decidable p] (hm : byteOfWord m j = if p then 0#8 else 0xFF#8)
    (hy : ¬ p → byteOfWord y j = 0#8) :
    byteOfWord (x &&& m ||| y) j = if p then byteOfWord y j else byteOfWord x j := by
  have hbytes : byteOfWord (x &&& m ||| y) j = byteOfWord x j &&& byteOfWord m j ||| byteOfWord y j := by
    unfold byteOfWord
    rw [BitVec.extractLsb'_or, BitVec.extractLsb'_and]
  rw [hbytes, hm]
  split_ifs with hp
  · rw [BitVec.and_zero, BitVec.zero_or]
  · rw [hy hp, BitVec.or_zero]
    exact BitVec.and_allOnes

theorem byteOfWord_lwlMerge (hk : k < 4) (hj : j < 4) :
    byteOfWord (lwlMerge k x y) j = if 3 - k ≤ j then byteOfWord y (j - (3 - k)) else byteOfWord x j := by
  have hmask : byteOfWord (lwlMask k) j = if 3 - k ≤ j then 0#8 else 0xFF#8 := by
    interval_cases k <;> interval_cases j <;> rfl
  have hshift : lwlShift k = 8 * (3 - k) := by interval_cases k <;> rfl
  have hbyte := byteOfWord_shiftLeft (x := y) (3 - k) hj
  rw [lwlMerge, hshift, byteOfWord_merge hmask fun h => by rw [hbyte, if_pos (Nat.lt_of_not_le h)]]
  split_ifs with h
  · rw [hbyte, if_neg (Nat.not_lt_of_le h)]
  · rfl

theorem byteOfWord_lwrMerge (hk : k < 4) (hj : j < 4) :
    byteOfWord (lwrMerge k x y) j = if j < 4 - k then byteOfWord y (j + k) else byteOfWord x j := by
  have hmask : byteOfWord (lwrMask k) j = if j < 4 - k then 0#8 else 0xFF#8 := by
    interval_cases k <;> interval_cases j <;> rfl
  have hshift : lwrShift k = 8 * k := by interval_cases k <;> rfl
  rw [lwrMerge, hshift, byteOfWord_merge hmask, byteOfWord_ushiftRight]
  intro h
  rw [byteOfWord_ushiftRight, byteOfWord_of_ge (by omega)]

theorem byteOfWord_swlMerge (hk : k < 4) (hj : j < 4) :
    byteOfWord (swlMerge k x y) j = if j ≤ k then byteOfWord y (3 - k + j) else byteOfWord x j := by
  have hmask : byteOfWord (swlMask k) j = if j ≤ k then 0#8 else 0xFF#8 := by
    interval_cases k <;> interval_cases j <;> rfl
  have hshift : swlShift k = 8 * (3 - k) := by interval_cases k <;> rfl
  rw [swlMerge, hshift, byteOfWord_merge hmask, byteOfWord_ushiftRight, Nat.add_comm]
  intro h
  rw [byteOfWord_ushiftRight, byteOfWord_of_ge (by omega)]

theorem byteOfWord_swrMerge (hk : k < 4) (hj : j < 4) :
    byteOfWord (swrMerge k x y) j = if j < k then byteOfWord x j else byteOfWord y (j - k) := by
  have hmask : byteOfWord (swrMask k) j = if ¬ j < k then 0#8 else 0xFF#8 := by
    interval_cases k <;> interval_cases j <;> rfl
  have hshift : swrShift k = 8 * k := by interval_cases k <;> rfl
  have hbyte := byteOfWord_shiftLeft (x := y) k hj
  rw [swrMerge, hshift, byteOfWord_merge hmask fun h => by rw [hbyte, if_pos (not_not.mp h)], ite_not]
  split_ifs with h
  · rfl
  · rw [hbyte, if_neg h]

end Merge

/-! ### The enclosing aligned word -/

section EnclosingWord

variable (a : Word)

/-- Clearing the low two bits takes the misalignment off. -/
theorem alignDown_eq_sub : alignDown a = a - BitVec.ofNat 32 (a.toNat % 4) := by
  have hmod : BitVec.ofNat 32 (a.toNat % 4) = a &&& 3#32 := by
    apply BitVec.eq_of_toNat_eq
    rw [BitVec.toNat_ofNat, BitVec.toNat_and, Nat.mod_eq_of_lt (by omega)]
    exact (Nat.and_two_pow_sub_one_eq_mod a.toNat 2).symm
  have hdisjoint : alignDown a &&& (a &&& 3#32) = 0#32 := by
    rw [alignDown, BitVec.and_comm a 3#32, BitVec.and_assoc, ← BitVec.and_assoc (0xFFFFFFFC : Word),
      show (0xFFFFFFFC : Word) &&& 3#32 = 0#32 from rfl, BitVec.zero_and, BitVec.and_zero]
  have hsplit : alignDown a + (a &&& 3#32) = a := by
    rw [BitVec.add_eq_or_of_and_eq_zero _ _ hdisjoint, alignDown, ← BitVec.and_or_distrib_left]
    exact BitVec.and_allOnes
  rw [hmod, eq_sub_iff_add_eq, hsplit]

theorem alignDown_toNat : (alignDown a).toNat = a.toNat - a.toNat % 4 := by
  rw [alignDown_eq_sub]
  bv_omega

theorem alignDown_aligned : (alignDown a).toNat % 4 = 0 := by
  rw [alignDown_toNat]
  omega

theorem alignDown_add : alignDown a + BitVec.ofNat 32 (a.toNat % 4) = a := by
  rw [alignDown_eq_sub, BitVec.sub_add_cancel]

end EnclosingWord

/-! ### Loads and stores that go ahead -/

/-- A load from the bus leaves its destination, its record and the calls the SPU has received (20_memory.md R79). -/
theorem onlyLoad_memRead (s : State) (a : Word) (w : Width) (rt : Reg) (v : Word) (merging : Bool) :
    OnlyLoad s ((s.memRead a w).2.finishLoad rt v merging) rt v merging (s.memRead a w).2.spuCalls := by
  rcases memRead_state s a w with h | h
  · rw [h]
    exact onlyLoad_finishLoad s rt v merging
  · rw [h]
    exact ⟨fun r => readReg_writeReg s rt r v, rfl⟩

section Access

variable {s : State} {base rt : Reg} {offset : Half} {a : Word} (ha : s.effAddr base offset = a)

include ha

/-- R210: an aligned load that is not skipped is one read of the bus, extended. -/
theorem loadInto_aligned (w : Width) (ext : Word → Word) (hn : s.lineageSkips rt false = false)
    (hal : a.toNat % widthBytes w = 0) :
    ∃ t, s.loadInto base rt offset w ext = .next t ∧
      OnlyLoad s t rt (ext (s.memRead a w).1) false (s.memRead a w).2.spuCalls :=
  ⟨_, by simp only [State.loadInto, ha, accessKind_aligned hal, hn], onlyLoad_memRead s a w rt _ false⟩

/-- R217, R218: one aligned read, merged into the old register. -/
theorem loadMerge_completes (merge : Nat → Word → Word → Word) (hn : s.lineageSkips rt true = false) :
    ∃ t, s.loadMerge base rt offset merge = .next t ∧
      OnlyLoad s t rt (merge (a.toNat % 4) (s.readReg rt) (s.memRead (alignDown a) .word).1) true
        (s.memRead (alignDown a) .word).2.spuCalls :=
  ⟨_, by simp only [State.loadMerge, ha, hn, Bool.false_eq_true, if_false]; rfl, onlyLoad_memRead s _ .word rt _ true⟩

/-- R220: an aligned store is one write of the bus. -/
theorem storeFrom_completes (w : Width) (hal : a.toNat % widthBytes w = 0) :
    ∃ t, s.storeFrom base rt offset w = .next t ∧ t = s.memWrite a w (s.readReg rt) ∧ BusOnly s t :=
  ⟨_, storeFrom_aligned ha (accessKind_aligned hal), rfl, memWrite_only s a w _⟩

/-- R224, R225: one aligned read, merged with the register and written back. -/
theorem storeMerge_eq (merge : Nat → Word → Word → Word) :
    s.storeMerge base rt offset merge = .next ((s.memRead (alignDown a) .word).2.memWrite (alignDown a) .word
      (merge (a.toNat % 4) (s.memRead (alignDown a) .word).1 (s.readReg rt))) := by
  subst ha
  rfl

end Access

section Exec

variable (base rt : Reg) (offset : Half) (s : State)

theorem exec_lwl : exec (.lwl base rt offset) s = s.loadMerge base rt offset lwlMerge := rfl

theorem exec_lwr : exec (.lwr base rt offset) s = s.loadMerge base rt offset lwrMerge := rfl

theorem exec_swl : exec (.swl base rt offset) s = s.storeMerge base rt offset swlMerge := rfl

theorem exec_swr : exec (.swr base rt offset) s = s.storeMerge base rt offset swrMerge := rfl

end Exec

/-! ### Every access through the bus -/

/-- The twelve words of the loads and stores (30_encoding.md R105). -/
theorem primaryEntry_loads_and_stores :
    PrimaryEntry 0x20 (formRRI .lb) ∧ PrimaryEntry 0x24 (formRRI .lbu) ∧ PrimaryEntry 0x21 (formRRI .lh) ∧
    PrimaryEntry 0x25 (formRRI .lhu) ∧ PrimaryEntry 0x23 (formRRI .lw) ∧ PrimaryEntry 0x22 (formRRI .lwl) ∧
    PrimaryEntry 0x26 (formRRI .lwr) ∧ PrimaryEntry 0x28 (formRRI .sb) ∧ PrimaryEntry 0x29 (formRRI .sh) ∧
    PrimaryEntry 0x2B (formRRI .sw) ∧ PrimaryEntry 0x2A (formRRI .swl) ∧ PrimaryEntry 0x2E (formRRI .swr) :=
  ⟨primaryEntry_withFieldsOf (.lb 0 0 0) rfl rfl, primaryEntry_withFieldsOf (.lbu 0 0 0) rfl rfl,
    primaryEntry_withFieldsOf (.lh 0 0 0) rfl rfl, primaryEntry_withFieldsOf (.lhu 0 0 0) rfl rfl,
    primaryEntry_withFieldsOf (.lw 0 0 0) rfl rfl, primaryEntry_withFieldsOf (.lwl 0 0 0) rfl rfl,
    primaryEntry_withFieldsOf (.lwr 0 0 0) rfl rfl, primaryEntry_withFieldsOf (.sb 0 0 0) rfl rfl,
    primaryEntry_withFieldsOf (.sh 0 0 0) rfl rfl, primaryEntry_withFieldsOf (.sw 0 0 0) rfl rfl,
    primaryEntry_withFieldsOf (.swl 0 0 0) rfl rfl, primaryEntry_withFieldsOf (.swr 0 0 0) rfl rfl⟩

/-- Settles O33: the skipped loads, then each shared operation at the effective address. -/
theorem accessesThroughTheBus : Obligations.AccessesThroughTheBus := by
  refine ⟨primaryEntry_loads_and_stores, fun base rt offset s => ?_⟩
  intro a k word b x w onlyBus
  have ha : s.effAddr base offset = a := effAddr_eq s base offset
  have hword : word = alignDown a := (alignDown_eq_sub a).symm
  have hk : k < 4 := Nat.mod_lt _ (by omega)
  simp only [w, hword, exec_lb, exec_lbu, exec_lh, exec_lhu, exec_lw, exec_lwl, exec_lwr, exec_sb, exec_sh, exec_sw, exec_swl,
    exec_swr]
  refine ⟨fun hskip => ?skips, fun hskip => ⟨if_pos hskip, if_pos hskip⟩, fun hn => ?loads, fun hn => ⟨?lwl, ?lwr⟩,
    storeFrom_completes ha .byte (Nat.mod_one _), storeFrom_completes ha .half, storeFrom_completes ha .word, ?swl, ?swr⟩
  case skips =>
    have skips (w : Width) (ext : Word → Word)
        (h : a.toNat % widthBytes w = 0 ∨ s.params.misaligned ≠ .addressError) :
        s.loadInto base rt offset w ext = .next s :=
      loadInto_skipped hskip (ha ▸ accessKind_ne_addressError (h.imp_left beq_iff_eq.mpr))
    exact ⟨skips .byte _ (.inl (Nat.mod_one _)), skips .byte _ (.inl (Nat.mod_one _)),
      fun h => ⟨skips .half _ h, skips .half _ h⟩, skips .word _⟩
  case loads =>
    exact ⟨loadInto_aligned ha .byte _ hn (Nat.mod_one _), loadInto_aligned ha .byte _ hn (Nat.mod_one _),
      fun h => ⟨loadInto_aligned ha .half _ hn h, loadInto_aligned ha .half _ hn h⟩, loadInto_aligned ha .word id hn⟩
  case lwl =>
    obtain ⟨t, ht, honly⟩ := loadMerge_completes ha lwlMerge hn
    exact ⟨t, _, ht, honly, fun j hj => byteOfWord_lwlMerge hk hj⟩
  case lwr =>
    obtain ⟨t, ht, honly⟩ := loadMerge_completes ha lwrMerge hn
    exact ⟨t, _, ht, honly, fun j hj => byteOfWord_lwrMerge hk hj⟩
  case swl =>
    exact ⟨_, _, storeMerge_eq ha swlMerge, rfl, (memRead_only s _ _).trans (memWrite_only _ _ _ _),
      fun j hj => byteOfWord_swlMerge hk hj⟩
  case swr =>
    exact ⟨_, _, storeMerge_eq ha swrMerge, rfl, (memRead_only s _ _).trans (memWrite_only _ _ _ _),
      fun j hj => byteOfWord_swrMerge hk hj⟩

/-! ### Addresses within one aligned word, and where they resolve -/

section WithinWord

variable {s : State} {a : Word} {j : Nat}

/-- Every page begins at a multiple of 64KB of its store. -/
theorem resolve_mod {st : Store} {off : Nat} (hr : s.resolve a = some (st, off)) : off % 0x10000 = a.toNat % 0x10000 := by
  rw [State.resolve, resolveAt_eq] at hr
  split_ifs at hr <;> cases hr <;> omega

/-- The addresses of one word lie in one page, one after the other. -/
theorem resolve_within_word (h : a.toNat % 4 + j < 4) :
    s.resolve (a + BitVec.ofNat 32 j) = (s.resolve a).map fun p => (p.1, p.2 + j) := by
  have hpage : pageOf (a + BitVec.ofNat 32 j) = pageOf a := by
    have := a.isLt
    simp only [pageOf, BitVec.toNat_add, BitVec.toNat_ofNat]
    omega
  have hoff : pageOffset (a + BitVec.ofNat 32 j) = pageOffset a + j := by
    have := a.isLt
    simp only [pageOffset, BitVec.toNat_add, BitVec.toNat_ofNat]
    omega
  unfold State.resolve resolveAt
  rw [hpage, hoff]
  cases lut s.cacheIsolated (pageOf a) with
  | none => rfl
  | some e => simp only [Option.map_some, Nat.add_assoc]

/-- Every store's size is a multiple of four, so an aligned access that starts in a store ends in it. -/
theorem resolve_fits {st : Store} {off : Nat} (w : Width) (hal : a.toNat % widthBytes w = 0)
    (hr : s.resolve a = some (st, off)) : off + widthBytes w ≤ st.size := by
  have hmod := resolve_mod hr
  have hlt : off < st.size := by
    rw [State.resolve, resolveAt_eq] at hr
    split_ifs at hr <;> cases hr <;> simp only [Store.size] <;> omega
  have hsize : st.size % 4 = 0 := by cases st <;> rfl
  cases w <;> simp only [widthBytes] at hal ⊢ <;> omega

/-- The register file is mapped (20_memory.md R62, R66). -/
theorem isHwFile_of_unmapped (hr : s.resolve a = none) : isHwFile a = false := by
  rw [isHwFile, Bool.and_eq_false_iff, beq_eq_false_iff_ne]
  left
  rw [Ne, pageOf_eq_ioPage]
  intro hpage
  rw [State.resolve, resolveAt_eq, if_neg (by omega), if_neg (by omega), if_pos hpage] at hr
  cases hr

theorem resolve_eq_alignDown : s.resolve a = (s.resolve (alignDown a)).map fun p => (p.1, p.2 + a.toNat % 4) := by
  have h : (alignDown a).toNat % 4 + a.toNat % 4 < 4 := by rw [alignDown_aligned]; omega
  have hr := resolve_within_word (s := s) h
  rwa [alignDown_add] at hr

/-- The store of an address holds the enclosing aligned word. -/
theorem resolve_alignDown {st : Store} {off : Nat} (hr : s.resolve a = some (st, off)) :
    a.toNat % 4 ≤ off ∧ s.resolve (alignDown a) = some (st, off - a.toNat % 4) := by
  rw [resolve_eq_alignDown, Option.map_eq_some_iff] at hr
  obtain ⟨⟨st', base⟩, hbase, ⟨⟩⟩ := hr
  exact ⟨Nat.le_add_left _ _, by rw [hbase, Nat.add_sub_cancel]⟩

theorem resolve_alignDown_unmapped (hr : s.resolve a = none) : s.resolve (alignDown a) = none := by
  rwa [resolve_eq_alignDown, Option.map_eq_none_iff] at hr

/-- The register file begins at a multiple of four (R66). -/
theorem isHwFile_alignDown (a : Word) : isHwFile (alignDown a) = isHwFile a := by
  have h := isHwFile_add (alignDown_aligned a) (Nat.mod_lt a.toNat (by omega))
  rw [alignDown_add] at h
  exact h.symm

end WithinWord

/-! ### Bytes of storage -/

section Storage

variable {s : State} {a : Word} {j : Nat}

theorem peek_of_resolve {st : Store} {off : Nat} (hr : s.resolve a = some (st, off)) : s.peek a = s.mem.byte st off := by
  simp only [State.peek, hr]

theorem peek_unmapped (hr : s.resolve a = none) : s.peek a = 0 := by
  simp only [State.peek, hr]

theorem setWidth_load_byte (m : Memory) (st : Store) (off : Nat) : (m.load st off .byte).setWidth 8 = m.byte st off := by
  simp [Memory.load]

/-- R60, R76: the bytes of a word of memory. -/
theorem byteOfWord_load (m : Memory) (st : Store) (off : Nat) (hj : j < 4) :
    byteOfWord (m.load st off .word) j = m.byte st (off + j) := by
  unfold byteOfWord Memory.load Memory.word
  interval_cases j
  · rw [BitVec.extractLsb'_append_eq_of_add_le (by omega), BitVec.extractLsb'_eq_self, Nat.add_zero]
  · rw [BitVec.extractLsb'_append_eq_of_le (by omega), BitVec.extractLsb'_append_eq_of_add_le (by omega),
      BitVec.extractLsb'_eq_self]
  · rw [BitVec.extractLsb'_append_eq_of_le (by omega), BitVec.extractLsb'_append_eq_of_le (by omega),
      BitVec.extractLsb'_append_eq_of_add_le (by omega), BitVec.extractLsb'_eq_self]
  · rw [BitVec.extractLsb'_append_eq_of_le (by omega), BitVec.extractLsb'_append_eq_of_le (by omega),
      BitVec.extractLsb'_append_eq_of_le (by omega), BitVec.extractLsb'_eq_self]

/-- A word is given by its four bytes. -/
theorem eq_of_byteOfWord_eq {v x : Word} (h : ∀ j, j < 4 → byteOfWord v j = byteOfWord x j) : v = x := by
  rw [← word_of_bytes v, ← word_of_bytes x, h 0, h 1, h 2, h 3] <;> omega

/-- R70: a byte read raw is the byte at the address. -/
theorem rawRead_byte : (s.rawRead a .byte).setWidth 8 = s.peek a := by
  cases hr : s.resolve a with
  | none => rw [rawRead_unmapped hr, peek_unmapped hr]; rfl
  | some p => rw [rawRead_of_resolve hr, peek_of_resolve hr, setWidth_load_byte]

/-- R71: an aligned halfword is the two bytes from the address on. -/
theorem rawRead_half (hal : a.toNat % 2 = 0) : (s.rawRead a .half).setWidth 16 = s.peek (a + 1) ++ s.peek a := by
  have hnext : s.resolve (a + 1) = (s.resolve a).map fun p => (p.1, p.2 + 1) :=
    resolve_within_word (j := 1) (by omega)
  cases hr : s.resolve a with
  | none =>
    rw [hr] at hnext
    rw [rawRead_unmapped hr, peek_unmapped hr, peek_unmapped hnext]
    rfl
  | some p =>
    rw [hr] at hnext
    rw [rawRead_of_resolve hr, peek_of_resolve hr, peek_of_resolve hnext, setWidth_load_half]

/-- R72: the bytes of an aligned word. -/
theorem byteOfWord_rawRead (hal : a.toNat % 4 = 0) (hj : j < 4) :
    byteOfWord (s.rawRead a .word) j = s.peek (a + BitVec.ofNat 32 j) := by
  have hbyte := resolve_within_word (s := s) (a := a) (j := j) (by omega)
  cases hr : s.resolve a with
  | none =>
    rw [hr] at hbyte
    rw [rawRead_unmapped hr, peek_unmapped hbyte]
    exact BitVec.extractLsb'_zero
  | some p =>
    rw [hr] at hbyte
    rw [rawRead_of_resolve hr, peek_of_resolve hbyte, byteOfWord_load _ _ _ hj]

theorem rawRead_word (hal : a.toNat % 4 = 0) :
    s.rawRead a .word = s.peek (a + 3) ++ s.peek (a + 2) ++ s.peek (a + 1) ++ s.peek a := by
  have hbyte (j : Nat) (hj : j < 4) := byteOfWord_rawRead (s := s) hal hj
  rw [← word_of_bytes (s.rawRead a .word), hbyte 0 (by omega), hbyte 1 (by omega), hbyte 2 (by omega), hbyte 3 (by omega),
    show BitVec.ofNat 32 0 = 0#32 from rfl, BitVec.add_zero]
  rfl

end Storage

/-- Settles O29: in plain storage the bus answers the raw bytes. -/
theorem loadsFromStorage : Obligations.LoadsFromStorage := by
  obtain ⟨hlb, hlbu, hlh, hlhu, hlw, -⟩ := primaryEntry_loads_and_stores
  refine ⟨hlb, hlbu, hlh, hlhu, hlw, fun base rt offset s => ?_⟩
  intro a hp hn
  have load (w : Width) (ext : Word → Word) (h : a.toNat % widthBytes w = 0) :
      ∃ t, s.loadInto base rt offset w ext = .next t ∧ OnlyLoad s t rt (ext (s.rawRead a w)) false s.spuCalls := by
    have hload := loadInto_aligned (effAddr_eq s base offset) w ext hn h
    rwa [memRead_plain s a w hp] at hload
  rw [exec_lb, exec_lbu, exec_lh, exec_lhu, exec_lw]
  refine ⟨?lb, ?lbu, fun h => ?half, fun h => ?word⟩
  case lb | lbu =>
    rw [← rawRead_byte]
    exact load .byte _ (Nat.mod_one _)
  case half =>
    rw [← rawRead_half h]
    exact ⟨load .half _ h, load .half _ h⟩
  case word =>
    rw [← rawRead_word h]
    exact load .word id h

/-! ### The unaligned loads -/

section UnalignedLoads

variable {s : State} {base rt : Reg} {offset : Half} {a : Word} (ha : s.effAddr base offset = a) (hp : isHwFile a = false)
  (hn : s.lineageSkips rt true = false)

include ha hp hn

/-- In plain storage the merged word is made of the bytes of the enclosing aligned one. -/
theorem loadMerge_storage (merge : Nat → Word → Word → Word) :
    ∃ t w, s.loadMerge base rt offset merge = .next t ∧
      OnlyLoad s t rt (merge (a.toNat % 4) (s.readReg rt) w) true s.spuCalls ∧
      ∀ j, j < 4 → byteOfWord w j = s.peek (alignDown a + BitVec.ofNat 32 j) := by
  obtain ⟨t, ht, honly⟩ := loadMerge_completes ha merge hn
  rw [memRead_plain s _ .word ((isHwFile_alignDown a).trans hp)] at honly
  exact ⟨t, _, ht, honly, fun j hj => byteOfWord_rawRead (alignDown_aligned a) hj⟩

/-- R217: LWL's bytes, counted down from the address. -/
theorem exec_lwl_bytes :
    ∃ t v, exec (.lwl base rt offset) s = .next t ∧ OnlyLoad s t rt v true s.spuCalls ∧
      ∀ j, j < 4 → byteOfWord v j =
        if 3 - a.toNat % 4 ≤ j then s.peek (a - BitVec.ofNat 32 (3 - j)) else byteOfWord (s.readReg rt) j := by
  obtain ⟨t, w, ht, honly, hbyte⟩ := loadMerge_storage ha hp hn lwlMerge
  refine ⟨t, _, ht, honly, fun j hj => ?_⟩
  rw [byteOfWord_lwlMerge (by omega) hj]
  split_ifs with h
  · have haddr : alignDown a + BitVec.ofNat 32 (j - (3 - a.toNat % 4)) = a - BitVec.ofNat 32 (3 - j) := by
      rw [alignDown_eq_sub]
      bv_omega
    rw [hbyte _ (by omega), haddr]
  · rfl

/-- R218: LWR's bytes, counted up from the address. -/
theorem exec_lwr_bytes :
    ∃ t v, exec (.lwr base rt offset) s = .next t ∧ OnlyLoad s t rt v true s.spuCalls ∧
      ∀ j, j < 4 → byteOfWord v j =
        if j < 4 - a.toNat % 4 then s.peek (a + BitVec.ofNat 32 j) else byteOfWord (s.readReg rt) j := by
  obtain ⟨t, w, ht, honly, hbyte⟩ := loadMerge_storage ha hp hn lwrMerge
  refine ⟨t, _, ht, honly, fun j hj => ?_⟩
  rw [byteOfWord_lwrMerge (by omega) hj]
  split_ifs with h
  · have haddr : alignDown a + BitVec.ofNat 32 (j + a.toNat % 4) = a + BitVec.ofNat 32 j := by
      rw [alignDown_eq_sub]
      bv_omega
    rw [hbyte _ (by omega), haddr]
  · rfl

end UnalignedLoads

/-- Settles O30: the merged word is the enclosing aligned one, whose bytes are counted from the address. -/
theorem unalignedLoads : Obligations.UnalignedLoads := by
  obtain ⟨-, -, -, -, -, hlwl, hlwr, -⟩ := primaryEntry_loads_and_stores
  refine ⟨hlwl, hlwr, fun base rt offset s => ?_⟩
  intro a k hp hn
  have ha : s.effAddr base offset = a := effAddr_eq s base offset
  exact ⟨exec_lwl_bytes ha hp hn, exec_lwr_bytes ha hp hn⟩

/-! ### Stores to storage -/

section Stores

variable {s : State} {a : Word}

/-- R74, R75: a write to an unmapped address is dropped, but for the word write to the cache-control address. -/
theorem memWrite_unmapped (hr : s.resolve a = none) (w : Width) (v : Word) (h : w = .word → a ≠ cacheCtrl) :
    s.memWrite a w v = s := by
  have hc : ¬ (a = cacheCtrl ∧ w = .word) := fun hc => h hc.2 hc.1
  simp only [State.memWrite, isHwFile_of_unmapped hr, hr, hc, Bool.false_eq_true, if_false]

/-- Where only the bytes from `lo` on change, the write was of these alone. -/
theorem OnlyBytes.narrow {s t : State} {st : Store} {off n lo m : Nat} {f g : Nat → Byte} (h : OnlyBytes s t st off n f)
    (hn : lo + m ≤ n)
    (hf : ∀ j, j < n → f j = if lo ≤ j ∧ j < lo + m then g (j - lo) else s.mem.byte st (off + j)) :
    OnlyBytes s t st (off + lo) m g := by
  obtain ⟨hbytes, hframe⟩ := h
  refine ⟨fun st' off' => ?_, hframe⟩
  rw [hbytes]
  by_cases hin : st' = st ∧ off ≤ off' ∧ off' < off + n
  · obtain ⟨rfl, hlo, hhi⟩ := hin
    have hiff : lo ≤ off' - off ∧ off' - off < lo + m ↔ off + lo ≤ off' ∧ off' < off + lo + m := by omega
    rw [if_pos ⟨rfl, hlo, hhi⟩, hf _ (by omega), Nat.add_sub_cancel' hlo, Nat.sub_sub]
    simp only [hiff, true_and]
  · rw [if_neg hin, if_neg fun h => hin ⟨h.1, by omega, by omega⟩]

/-- An aligned store to a mapped address outside the register file is of the low bytes, in the store it reaches. -/
theorem storeFrom_onlyBytes {base rt : Reg} {offset : Half} {st : Store} {off : Nat} (ha : s.effAddr base offset = a)
    (hwf : s.mem.wf = true) (hp : isHwFile a = false) (hr : s.resolve a = some (st, off)) (w : Width)
    (hal : a.toNat % widthBytes w = 0) :
    ∃ t, s.storeFrom base rt offset w = .next t ∧ OnlyBytes s t st off (widthBytes w) (byteOfWord (s.readReg rt)) := by
  refine ⟨_, storeFrom_aligned ha (accessKind_aligned hal), ?_⟩
  rw [memWrite_plain s a w _ hp st off hr]
  exact onlyBytes_store s hwf st off w _ (resolve_fits w hal hr)

theorem storeFrom_unmapped {base rt : Reg} {offset : Half} (ha : s.effAddr base offset = a) (hr : s.resolve a = none)
    (w : Width) (hal : a.toNat % widthBytes w = 0) (hc : w = .word → a ≠ cacheCtrl) :
    s.storeFrom base rt offset w = .next s := by
  rw [storeFrom_aligned ha (accessKind_aligned hal), memWrite_unmapped hr w _ hc]

end Stores

/-- Settles O31: a mapped address, then an unmapped one, where only the word store can meet the cache-control address. -/
theorem storesToStorage : Obligations.StoresToStorage := by
  obtain ⟨-, -, -, -, -, -, -, hsb, hsh, hsw, -⟩ := primaryEntry_loads_and_stores
  refine ⟨hsb, hsh, hsw, fun base rt offset s => ?_⟩
  intro a
  have ha : s.effAddr base offset = a := effAddr_eq s base offset
  rw [exec_sb, exec_sh, exec_sw]
  refine ⟨fun st off hwf hp hr => ?mapped, fun hr => ?unmapped⟩
  case mapped =>
    have store := storeFrom_onlyBytes (rt := rt) ha hwf hp hr
    exact ⟨store .byte (Nat.mod_one _), store .half, store .word⟩
  case unmapped =>
    have store := storeFrom_unmapped (rt := rt) ha hr
    exact ⟨store .byte (Nat.mod_one _) nofun, fun h => store .half h nofun, fun h hc => store .word h fun _ => hc⟩

/-! ### The unaligned stores -/

section UnalignedStores

variable {s : State} {base rt : Reg} {offset : Half} {a : Word} (ha : s.effAddr base offset = a)

include ha

/-- R224, R225: of the enclosing word only the bytes that the merge takes from the register change. -/
theorem storeMerge_onlyBytes {st : Store} {off : Nat} (hwf : s.mem.wf = true) (hp : isHwFile a = false)
    (hr : s.resolve a = some (st, off)) {merge : Nat → Word → Word → Word} {lo m : Nat} {g : Nat → Byte}
    (hm : lo + m ≤ 4)
    (hmerge : ∀ w j, j < 4 → byteOfWord (merge (a.toNat % 4) w (s.readReg rt)) j =
      if lo ≤ j ∧ j < lo + m then g (j - lo) else byteOfWord w j) :
    ∃ t, s.storeMerge base rt offset merge = .next t ∧ t.mem.wf = true ∧
      OnlyBytes s t st (off - a.toNat % 4 + lo) m g := by
  obtain ⟨-, hword⟩ := resolve_alignDown hr
  have hp' : isHwFile (alignDown a) = false := (isHwFile_alignDown a).trans hp
  have hs := resolve_fits .word (alignDown_aligned a) hword
  refine ⟨_, storeMerge_eq ha merge, ?_⟩
  rw [memRead_of_resolve hp' hword, memWrite_plain s _ .word _ hp' _ _ hword]
  refine ⟨Memory.store_wf hwf _ _ _ _, (onlyBytes_store s hwf st _ .word _ hs).narrow hm fun j hj => ?_⟩
  rw [hmerge _ j hj, byteOfWord_load _ _ _ hj]

/-- SWL stores the top bytes of the register, from the start of the word to the address. -/
theorem exec_swl_onlyBytes {st : Store} {off : Nat} (hwf : s.mem.wf = true) (hp : isHwFile a = false)
    (hr : s.resolve a = some (st, off)) :
    ∃ t, exec (.swl base rt offset) s = .next t ∧ t.mem.wf = true ∧
      OnlyBytes s t st (off - a.toNat % 4) (a.toNat % 4 + 1)
        (fun j => byteOfWord (s.readReg rt) (3 - a.toNat % 4 + j)) := by
  refine storeMerge_onlyBytes ha hwf hp hr (lo := 0) (by omega) fun w j hj => ?_
  rw [byteOfWord_swlMerge (by omega) hj]
  exact if_congr (by omega) rfl rfl

/-- SWR stores the bottom bytes of the register, from the address to the end of the word. -/
theorem exec_swr_onlyBytes {st : Store} {off : Nat} (hwf : s.mem.wf = true) (hp : isHwFile a = false)
    (hr : s.resolve a = some (st, off)) :
    ∃ t, exec (.swr base rt offset) s = .next t ∧ t.mem.wf = true ∧
      OnlyBytes s t st off (4 - a.toNat % 4) (byteOfWord (s.readReg rt)) := by
  have hoff : off - a.toNat % 4 + a.toNat % 4 = off := Nat.sub_add_cancel (resolve_alignDown hr).1
  have hstore := storeMerge_onlyBytes ha (rt := rt) hwf hp hr (merge := swrMerge) (lo := a.toNat % 4)
    (m := 4 - a.toNat % 4) (g := byteOfWord (s.readReg rt)) (by omega) fun w j hj => by
      rw [byteOfWord_swrMerge (by omega) hj, ← ite_not]
      exact if_congr (by omega) rfl rfl
  rwa [hoff] at hstore

theorem storeMerge_unmapped (hr : s.resolve a = none) (hc : alignDown a ≠ cacheCtrl)
    (merge : Nat → Word → Word → Word) : s.storeMerge base rt offset merge = .next s := by
  have hword := resolve_alignDown_unmapped hr
  rw [storeMerge_eq ha, memRead_plain s _ .word (isHwFile_of_unmapped hword), memWrite_unmapped hword .word _ fun _ => hc]

end UnalignedStores

/-- Settles O32: what the merge leaves of the enclosing word is written back as it was. -/
theorem unalignedStores : Obligations.UnalignedStores := by
  obtain ⟨-, -, -, -, -, -, -, -, -, -, hswl, hswr⟩ := primaryEntry_loads_and_stores
  refine ⟨hswl, hswr, fun base rt offset s => ?_⟩
  intro a k
  have ha : s.effAddr base offset = a := effAddr_eq s base offset
  refine ⟨fun st off hwf hp hr => ⟨?swl, ?swr⟩, fun hr hc => ?unmapped⟩
  case swl =>
    obtain ⟨t, ht, -, honly⟩ := exec_swl_onlyBytes (rt := rt) ha hwf hp hr
    exact ⟨t, ht, honly⟩
  case swr =>
    obtain ⟨t, ht, -, honly⟩ := exec_swr_onlyBytes (rt := rt) ha hwf hp hr
    exact ⟨t, ht, honly⟩
  case unmapped =>
    have hne : alignDown a ≠ cacheCtrl := fun h => hc (by
      have hword : a.toNat - a.toNat % 4 = 0xFFFE0130 := (alignDown_toNat a).symm.trans (congrArg BitVec.toNat h)
      omega)
    exact ⟨storeMerge_unmapped ha hr hne swlMerge, storeMerge_unmapped ha hr hne swrMerge⟩

/-! ### The unaligned pairs (R226) -/

/-- From `s` to `t`, byte `j` of `x` is stored at `a + j` for `lo ≤ j < hi`; no other byte of memory, and
nothing else, changes. -/
structure StoredAt (s t : State) (a : Word) (lo hi : Nat) (x : Word) : Prop where
  stored : ∀ j, lo ≤ j → j < hi → t.peek (a + BitVec.ofNat 32 j) = byteOfWord x j
  others : ∀ st off, (∀ j, lo ≤ j → j < hi → s.resolve (a + BitVec.ofNat 32 j) ≠ some (st, off)) →
    t.mem.byte st off = s.mem.byte st off
  frame  : t = { s with mem := t.mem }

namespace StoredAt

variable {s t u : State} {a x : Word} {lo hi : Nat}

theorem readReg (h : StoredAt s t a lo hi x) (r : Reg) : t.readReg r = s.readReg r := by rw [h.frame]; rfl

theorem resolve (h : StoredAt s t a lo hi x) (b : Word) : t.resolve b = s.resolve b := by rw [h.frame]; rfl

theorem params (h : StoredAt s t a lo hi x) : t.params = s.params := by rw [h.frame]

end StoredAt

/-- Two bytes of one word of memory, aligned or not, are never the same byte of a store. -/
theorem resolve_add_injective {s : State} {a : Word} {i j : Nat} {p : Store × Nat} (hi : i < 4) (hj : j < 4)
    (h : s.resolve (a + BitVec.ofNat 32 i) = some p) (h' : s.resolve (a + BitVec.ofNat 32 j) = some p) : i = j := by
  have hmod := (resolve_mod h).symm.trans (resolve_mod h')
  simp only [BitVec.toNat_add, BitVec.toNat_ofNat] at hmod
  omega

/-- Bytes stored one after the other in a store, at addresses within one aligned word. -/
theorem OnlyBytes.storedAt {s t : State} {st : Store} {off n lo : Nat} {a x : Word} {f : Nat → Byte}
    (h : OnlyBytes s t st off n f) (hr : s.resolve (a + BitVec.ofNat 32 lo) = some (st, off))
    (hn : (a + BitVec.ofNat 32 lo).toNat % 4 + n ≤ 4) (hf : ∀ j, f j = byteOfWord x (lo + j)) :
    StoredAt s t a lo (lo + n) x := by
  obtain ⟨hbytes, hframe⟩ := h
  have hrj (j : Nat) (hlo : lo ≤ j) (hhi : j < lo + n) :
      s.resolve (a + BitVec.ofNat 32 j) = some (st, off + (j - lo)) := by
    have haddr : a + BitVec.ofNat 32 lo + BitVec.ofNat 32 (j - lo) = a + BitVec.ofNat 32 j := by
      rw [BitVec.add_assoc, ← BitVec.ofNat_add, Nat.add_sub_cancel' hlo]
    rw [← haddr, resolve_within_word (by omega), hr]
    rfl
  refine ⟨fun j hlo hhi => ?_, fun st' off' hne => ?_, hframe⟩
  · have hrt : t.resolve (a + BitVec.ofNat 32 j) = some (st, off + (j - lo)) := by
      rw [hframe]
      exact hrj j hlo hhi
    rw [peek_of_resolve hrt, hbytes, if_pos ⟨rfl, by omega, by omega⟩, hf]
    congr 1
    omega
  · rw [hbytes, if_neg]
    rintro ⟨rfl, hlo, hhi⟩
    refine hne (lo + (off' - off)) (by omega) (by omega) ?_
    rw [hrj _ (by omega) (by omega)]
    congr 2
    omega

/-- Two stores of the same bytes to one word add up. -/
theorem StoredAt.union {s t u : State} {a x : Word} {lo hi : Nat} (h : StoredAt s t a lo 4 x) (h' : StoredAt t u a 0 hi x)
    (hlo : lo ≤ hi) (hhi : hi ≤ 4) : StoredAt s u a 0 4 x := by
  refine ⟨fun j _ hj => ?_, fun st off hne => ?_, by rw [h'.frame, h.frame]⟩
  · by_cases hjhi : j < hi
    · exact h'.stored j (Nat.zero_le _) hjhi
    · rw [← h.stored j (by omega) hj]
      cases hr : t.resolve (a + BitVec.ofNat 32 j) with
      | none => rw [peek_unmapped hr, peek_unmapped ((h'.resolve _).trans hr)]
      | some p =>
        rw [peek_of_resolve hr, peek_of_resolve ((h'.resolve _).trans hr)]
        refine h'.others p.1 p.2 fun i _ hi hri => ?_
        have hij : i = j := resolve_add_injective (by omega) hj hri hr
        omega
  · rw [h'.others st off fun j _ hj => (h.resolve _).symm ▸ hne j (Nat.zero_le _) (by omega),
      h.others st off fun j _ hj => hne j (Nat.zero_le _) hj]

/-- The address of the first byte. -/
theorem effAddr_zero {s : State} {b : Reg} {a : Word} (hb : s.readReg b = a) : s.effAddr b 0 = a := by
  rw [State.effAddr, hb]
  exact BitVec.add_zero a

/-- The address of the last byte. -/
theorem effAddr_three {s : State} {b : Reg} {a : Word} (hb : s.readReg b = a) : s.effAddr b 3 = a + 3 := by
  rw [State.effAddr, hb]
  rfl

/-- R226, the stores: SWL at the last byte and SWR at the first one store all four. -/
theorem exec_swl_swr_storedAt {s : State} {b r : Reg} {a : Word} (hb : s.readReg b = a) (hwf : s.mem.wf = true)
    (hp : isHwFile a = false) (hp' : isHwFile (a + 3) = false) (hm : (s.resolve a).isSome = true)
    (hm' : (s.resolve (a + 3)).isSome = true) :
    ∃ t u, exec (.swl b r 3) s = .next t ∧ exec (.swr b r 0) t = .next u ∧ StoredAt s u a 0 4 (s.readReg r) := by
  obtain ⟨⟨st, off⟩, hr⟩ := Option.isSome_iff_exists.mp hm
  obtain ⟨⟨st', off'⟩, hr'⟩ := Option.isSome_iff_exists.mp hm'
  obtain ⟨t, ht, htwf, hswl⟩ := exec_swl_onlyBytes (rt := r) (effAddr_three hb) hwf hp' hr'
  have hleft : StoredAt s t a (3 - (a + 3).toNat % 4) 4 (s.readReg r) := by
    have hstart : alignDown (a + 3) = a + BitVec.ofNat 32 (3 - (a + 3).toNat % 4) := by
      rw [alignDown_eq_sub]
      bv_omega
    have hend : 3 - (a + 3).toNat % 4 + ((a + 3).toNat % 4 + 1) = 4 := by omega
    have hstored := hswl.storedAt (hstart ▸ (resolve_alignDown hr').2)
      (by rw [← hstart, alignDown_aligned]; omega) fun _ => rfl
    rwa [hend] at hstored
  have hb' : t.effAddr b 0 = a := effAddr_zero ((hleft.readReg b).trans hb)
  obtain ⟨u, hu, -, hswr⟩ := exec_swr_onlyBytes (rt := r) hb' htwf hp ((hleft.resolve a).trans hr)
  have hright : StoredAt t u a 0 (4 - a.toNat % 4) (s.readReg r) := by
    rw [← Nat.zero_add (4 - a.toNat % 4)]
    refine hswr.storedAt ?_ ?_ fun j => ?_
    · rw [show a + BitVec.ofNat 32 0 = a from BitVec.add_zero a, hleft.resolve a, hr]
    · rw [show a + BitVec.ofNat 32 0 = a from BitVec.add_zero a]
      omega
    · rw [hleft.readReg r, Nat.zero_add]
  exact ⟨t, u, ht, hu, hleft.union hright (by bv_omega) (by omega)⟩

theorem lineageSkips_of_ne_lineage {s : State} (h : s.params.loadDelay ≠ .lineage) (r : Reg) (merging : Bool) :
    s.lineageSkips r merging = false :=
  Bool.eq_false_iff.mpr fun hk => h ((lineageSkips_iff s r merging).mp hk).1

/-- A load leaves memory, the page table and the parameters alone. -/
theorem OnlyLoad.peek {s t : State} {rd : Reg} {v : Word} {merging : Bool} {calls : List SpuCall}
    (h : OnlyLoad s t rd v merging calls) (a : Word) : t.peek a = s.peek a := by
  rw [h.2]
  rfl

theorem OnlyLoad.params {s t : State} {rd : Reg} {v : Word} {merging : Bool} {calls : List SpuCall}
    (h : OnlyLoad s t rd v merging calls) : t.params = s.params := by
  rw [h.2]

/-- R226, the loads: LWL at the last byte and LWR at the first one load all four, whatever the destination held. -/
theorem exec_lwl_lwr_readReg {s : State} {b d : Reg} {a x : Word} (hb : s.readReg b = a) (hd : d ≠ 0) (hdb : d ≠ b)
    (hl : s.params.loadDelay ≠ .lineage) (hp : isHwFile a = false) (hp' : isHwFile (a + 3) = false)
    (hx : ∀ j, j < 4 → s.peek (a + BitVec.ofNat 32 j) = byteOfWord x j) :
    ∃ t u, exec (.lwl b d 3) s = .next t ∧ exec (.lwr b d 0) t = .next u ∧ u.readReg d = x := by
  obtain ⟨t, v, ht, hlwl, hv⟩ :=
    exec_lwl_bytes (rt := d) (effAddr_three hb) hp' (lineageSkips_of_ne_lineage hl d true)
  have htb : t.readReg b = a := by rw [hlwl.1, if_neg fun h => hdb h.1.symm, hb]
  have htd : t.readReg d = v := by rw [hlwl.1, if_pos ⟨rfl, hd⟩]
  obtain ⟨u, v', hu, hlwr, hv'⟩ :=
    exec_lwr_bytes (rt := d) (effAddr_zero htb) hp (lineageSkips_of_ne_lineage (hlwl.params ▸ hl) d true)
  refine ⟨t, u, ht, hu, ?_⟩
  rw [hlwr.1, if_pos ⟨rfl, hd⟩]
  refine eq_of_byteOfWord_eq fun j hj => ?_
  rw [hv' j hj]
  split_ifs with hlow
  · rw [hlwl.peek, hx j hj]
  · have haddr : a + 3 - BitVec.ofNat 32 (3 - j) = a + BitVec.ofNat 32 j := by bv_omega
    have hhigh : 3 - (a + 3).toNat % 4 ≤ j := by bv_omega
    rw [htd, hv j hj]
    exact (if_pos hhigh).trans ((congrArg s.peek haddr).trans (hx j hj))

/-- Settles O35: the two stores make the four bytes, the two loads read them. -/
theorem unalignedRoundTrip : Obligations.UnalignedRoundTrip := by
  intro b r d s hwf hd hdb hl a hp hp' hm hm'
  obtain ⟨s1, s2, h1, h2, hstored⟩ := exec_swl_swr_storedAt (r := r) rfl hwf hp hp' hm hm'
  have hbytes (j : Nat) (hj : j < 4) : s2.peek (a + BitVec.ofNat 32 j) = byteOfWord (s.readReg r) j :=
    hstored.stored j (Nat.zero_le j) hj
  obtain ⟨s3, s4, h3, h4, hload⟩ :=
    exec_lwl_lwr_readReg (hstored.readReg b) hd hdb (hstored.params ▸ hl) hp hp' hbytes
  exact ⟨s1, s2, s3, s4, h1, h2, h3, h4, hbytes,
    fun st off hne => hstored.others st off fun j _ hj => hne j hj, hload⟩

end Sys2Proof.Machine

/-! ## System and Coprocessor 0 (46_system_cop0.md)

The traps are the exception of the executing instruction; the moves copy a whole register between the two files; RFE pops the
Status stack, which undoes the push of a trap entry but for the old pair. -/

namespace Sys2Proof.Machine

/-! ### Words by their rs (30_encoding.md R102, R108) -/

/-- Every word with op 16 and the rs of a COP0 row decodes to that row's instruction, with the word's fields as operands. -/
theorem cop0Entry_withFieldsOf {rs : BitVec 5} (i : Instr) (hm : i.row.mask = 0xFFE00000#32)
    (hb : 16#6 ++ rs ++ 0#21 = i.row.bits) : Cop0Entry rs i.withFieldsOf := fun w hop hrs =>
  decode_of_selects (by rw [TableRow.selects, hm, keyBits_cop0, hop, hrs, hb, beq_self_eq_true])

/-! ### SYSCALL and BREAK (R231, R232) -/

/-- BD is "in a delay slot", unless BD_ON_NOT_TAKEN leaves the slot of a branch not taken out (60_exceptions.md R262). -/
theorem bdFlag_eq_inDelaySlot {s : State} (h : s.ctx.consumed = .notTaken → s.params.bdOnNotTaken = true) :
    s.bdFlag = s.inDelaySlot := by
  unfold State.bdFlag State.inDelaySlot
  cases hc : s.ctx.consumed with
  | none => rfl
  | notTaken => exact h hc
  | taken => rfl

theorem exec_brk_of_not_breakTraps {s : State} (h : s.params.breakTraps = false) (code : BitVec 20) :
    exec (.brk code) s = .next s :=
  if_neg (Bool.eq_false_iff.mp h)

/-- Settles O40: both are the exception of the executing instruction, whose BD is the delay slot. -/
theorem trapInstructions : Obligations.TrapInstructions := by
  refine ⟨specialEntry_withFieldsOf (.syscall 0) rfl rfl, specialEntry_withFieldsOf (.brk 0) rfl rfl, fun code s hslot => ?_⟩
  have hbd : s.bdFlag = s.inDelaySlot := bdFlag_eq_inDelaySlot hslot
  exact ⟨trapEntered_of_raiseHere hbd (exec_syscall s code),
    fun hb => trapEntered_of_raiseHere hbd (exec_brk_of_breakTraps hb code), fun hb => exec_brk_of_not_breakTraps hb code⟩

/-! ### The moves (R233 to R236) -/

section Moves

variable (rt rd : Reg) (s : State)

theorem exec_mfc0 : exec (.mfc0 rt rd) s = s.moveFromCop0 rt rd := rfl

theorem exec_cfc0 : exec (.cfc0 rt rd) s = s.moveFromCop0 rt rd := rfl

theorem exec_mtc0 : exec (.mtc0 rt rd) s = .next (s.writeCop0 rd (s.readReg rt)) := rfl

theorem exec_ctc0 : exec (.ctc0 rt rd) s = .next (s.writeCop0 rd (s.readReg rt)) := rfl

/-- A move from Coprocessor 0 that goes ahead ends as a load of the register's value. -/
theorem moveFromCop0_completes (hn : s.lineageSkips rt false = false) :
    ∃ t, s.moveFromCop0 rt rd = .next t ∧ OnlyLoad s t rt (s.readCop0 rd) false s.spuCalls :=
  ⟨_, if_neg (Bool.eq_false_iff.mp hn), onlyLoad_finishLoad s rt _ false⟩

theorem moveFromCop0_skipped (hk : s.lineageSkips rt false = true) : s.moveFromCop0 rt rd = .next s := if_pos hk

end Moves

/-- Settles O42: each name is the one move of its direction. -/
theorem cop0Moves : Obligations.Cop0Moves := by
  refine ⟨cop0Entry_withFieldsOf (.mfc0 0 0) rfl rfl, cop0Entry_withFieldsOf (.cfc0 0 0) rfl rfl,
    cop0Entry_withFieldsOf (.mtc0 0 0) rfl rfl, cop0Entry_withFieldsOf (.ctc0 0 0) rfl rfl,
    fun rt rd s => ⟨fun hn => ?completes, fun hk => ?skipped, ?written⟩⟩
  case completes =>
    rw [exec_mfc0, exec_cfc0]
    exact ⟨moveFromCop0_completes rt rd s hn, moveFromCop0_completes rt rd s hn⟩
  case skipped =>
    rw [exec_mfc0, exec_cfc0]
    exact ⟨moveFromCop0_skipped rt rd s hk, moveFromCop0_skipped rt rd s hk⟩
  case written =>
    exact ⟨_, exec_mtc0 rt rd s, exec_ctc0 rt rd s, rfl, fun r => readCop0_writeCop0 s rd r _⟩

/-! ### Return from exception (R237; 60_exceptions.md R266) -/

/-- The pop, bit by bit: bits 5:2 move to 3:0, and bits 31:4 stay. -/
theorem statusPop_getLsbD (v : Word) (k : Nat) :
    (statusPop v).getLsbD k = if k < 4 then v.getLsbD (k + 2) else v.getLsbD k := by
  by_cases hk : k < 32
  · simp only [statusPop, BitVec.getLsbD_or, BitVec.getLsbD_and, BitVec.getLsbD_ushiftRight]
    interval_cases k <;> simp
  · rw [if_neg (by omega), BitVec.getLsbD_of_ge _ k (by omega), BitVec.getLsbD_of_ge v k (by omega)]

theorem exec_rfe (s : State) : exec .rfe s = .next s.rfe := rfl

theorem rfe_readCop0 (s : State) (r : Reg) :
    s.rfe.readCop0 r = if r = statusReg then statusPop (s.readCop0 statusReg) else s.readCop0 r :=
  readCop0_writeCop0 s statusReg r _

theorem rfe_readCop0_status (s : State) : s.rfe.readCop0 statusReg = statusPop (s.readCop0 statusReg) :=
  (rfe_readCop0 s statusReg).trans (if_pos rfl)

/-- The push of a trap entry and the pop of RFE leave every bit of Status but the old pair, bits 5:4, as it was. -/
theorem TrapEntered.status_rfe {s t : State} {code : Nat} {isInterrupt bd : Bool} {resume : Word}
    (h : TrapEntered s t code isInterrupt bd resume) {k : Nat} (hk : k < 4 ∨ 6 ≤ k) :
    (t.rfe.readCop0 statusReg).getLsbD k = (s.readCop0 statusReg).getLsbD k := by
  rw [rfe_readCop0_status, statusPop_getLsbD, h.status, h.status]
  rcases hk with hlow | hhigh
  · rw [if_pos hlow, if_neg (by omega), if_pos (by omega), Nat.add_sub_cancel]
  · rw [if_neg (by omega), if_neg (by omega), if_neg (by omega)]

/-- Settles O43: RFE is the pop of Status alone, and the pop undoes the push. -/
theorem rfeRestoresStatus : Obligations.RfeRestoresStatus := by
  refine ⟨cop0Entry_withFieldsOf .rfe rfl rfl, fun s => ?pop, fun s c bd resume hfw => ?afterTrap⟩
  case pop =>
    refine ⟨_, exec_rfe s, rfl, fun r hr => (rfe_readCop0 s r).trans (if_neg hr), fun k => ?_⟩
    rw [rfe_readCop0_status, statusPop_getLsbD]
  case afterTrap =>
    have htrap := trapEntered_raise s c bd resume hfw
    exact ⟨_, exec_rfe _, fun _ hk => htrap.status_rfe hk⟩

end Sys2Proof.Machine

/-! ## The end of a step, the load-use policies and the cycle count (60_exceptions.md R258; 70_reset_and_hazards.md R360, R370)

When a step evaluates and what it leaves, what each policy makes of a hazard, and the bookkeeping that every step does. -/

namespace Sys2Proof.Machine

/-! ### Evaluation points (R258) -/

theorem evaluationPoint_iff (every : Bool) (consumed left : Slot) :
    evaluationPoint every consumed left = true ↔ left = .none ∧ ((∃ t, consumed = .taken t) ∨ every = true) := by
  cases left with
  | none => cases consumed <;> simp [evaluationPoint]
  | notTaken | taken => simp [evaluationPoint]

theorem completeTransfer_ctx (s : State) : s.completeTransfer.ctx = s.ctx := by
  rw [completeTransfer_eq]
  rfl

/-- Completing a transfer moves pc, on which the evaluation point does not depend. -/
theorem endStep_eq (u : State) : u.endStep =
    if evaluationPoint u.params.evalEvery u.ctx.consumed u.slot then u.completeTransfer.evaluate.endCtx
    else u.completeTransfer.endCtx := by
  rw [State.endStep, (completeTransfer_keeps u).params, completeTransfer_ctx, completeTransfer_slot]
  split <;> rfl

/-- Settles O7: the three cases of an evaluation point, and a step's end with and without one. -/
theorem endOfStep : Obligations.EndOfStep := by
  refine ⟨evaluationPoint_iff, endStep_eq, fun u hq => ?quiet⟩
  case quiet =>
    rw [endStep_of_quiet hq, completeTransfer_eq, completeTransfer_pc]
    rfl

/-! ### The load-use policies (R360) -/

/-- The step of an instruction that a load before it refuses. -/
theorem step_of_loadStage_stop {s : State} {i : Instr} {r : Refusal} (ha : wordAligned s.pc = true)
    (hd : decode (s.fetch s.pc) = .instr i) (hl : s.loadStage i = .stop r) : step s = .refused r := by
  simp only [step, State.stepWith, fetchStage_of_instr ha hd, hl]

/-- The step of an instruction that a load before it is held back from. -/
theorem step_of_loadStage_delayed {s : State} {i : Instr} {d : LoadDelay} (ha : wordAligned s.pc = true)
    (hd : decode (s.fetch s.pc) = .instr i) (hl : s.loadStage i = .delayed d) :
    step s = onNext (fun u => (u.settleLoad i).endStep) (exec i (s.executing.holdBack d)) := by
  simp only [step, State.stepWith, fetchStage_of_instr ha hd, hl]

theorem landHeld_readReg {s : State} {p : HeldLoad} (h : s.ctx.held = some p) (hp : p.reg ≠ 0) (r : Reg) :
    s.landHeld.readReg r = if r = p.reg then p.value else s.readReg r := by
  rw [landHeld_some h]
  refine (readReg_writeReg s p.reg r p.value).trans ?_
  by_cases hr : r = p.reg
  · rw [if_pos ⟨hr, hr ▸ hp⟩, if_pos hr]
  · rw [if_neg fun h => hr h.1, if_neg hr]

theorem holdBack_readReg {d : LoadDelay} (hd : d.reg ≠ 0) (s : State) (r : Reg) :
    (s.holdBack d).readReg r = if r = d.reg then d.before else s.readReg r := by
  refine (readReg_writeReg s d.reg r d.before).trans ?_
  by_cases hr : r = d.reg
  · rw [if_pos ⟨hr, hr ▸ hd⟩, if_pos hr]
  · rw [if_neg fun h => hr h.1, if_neg hr]

/-- An instruction that traps has landed the load held back from it (R253). -/
theorem ExecOk.of_trapped {s u : State} (h : ExecOk s u) (hs : s.ctx.trapped = false) (hu : u.ctx.trapped = true) :
    u.ctx.held = none ∧ (s.params.firmware = .absent → u.gpr = s.landHeld.gpr) := by
  rcases h.ctx with e | ⟨e, hg⟩
  · rw [e, hs] at hu
    cases hu
  · exact ⟨congrArg StepCtx.held e, hg⟩

theorem ExecOk.ctx_of_not_trapped {s u : State} (h : ExecOk s u) (hu : u.ctx.trapped = false) : u.ctx = s.ctx := by
  rcases h.ctx with e | ⟨e, -⟩
  · exact e
  · rw [e] at hu
    cases hu

/-- An instruction has written its register itself, unless it is a branch that left its link out (log 11). -/
theorem wrote_iff (t : State) (i : Instr) (r : Reg) :
    t.wrote i r = true ↔ regWritten i = some r ∧
      ((∃ rs imm, i = .bltzal rs imm ∨ i = .bgezal rs imm) → t.params.linkWhenNotTaken = true ∨ t.slot ≠ .notTaken) := by
  unfold State.wrote
  rw [Bool.and_eq_true, beq_iff_eq]
  refine and_congr_right fun _ => ?_
  split
  case h_1 => simp
  case h_2 => simp
  case h_3 hz hgz =>
    refine iff_of_true rfl ?_
    rintro ⟨rs, imm, rfl | rfl⟩
    · exact absurd rfl (hz rs imm)
    · exact absurd rfl (hgz rs imm)

/-- A load still held back is forgotten where the instruction wrote the register itself, and lands anywhere else. -/
theorem settleLoad_readReg {u : State} {i : Instr} {p : HeldLoad} (h : u.ctx.held = some p) (hp : p.reg ≠ 0) (r : Reg) :
    (u.settleLoad i).readReg r = if u.wrote i p.reg then u.readReg r else if r = p.reg then p.value else u.readReg r := by
  simp only [State.settleLoad, h]
  cases u.wrote i p.reg with
  | true => rfl
  | false => exact landHeld_readReg h hp r

/-- Settles O9: the load stage by policy; then, with the load held back, whether the instruction trapped, and whether it wrote
the register itself. -/
theorem loadUsePolicies : Obligations.LoadUsePolicies := by
  intro s i d ha hd hl hz
  have hreg : d.reg ≠ 0 := ((isHazard_iff _ _ _ _).mp hz).1
  refine ⟨fun hp => ?refuse, fun hp u hu => ?immediate, fun hp => ?delayed⟩
  case refuse => exact step_of_loadStage_stop ha hd (by simp only [State.loadStage, hl, hz, hp, if_true])
  case immediate =>
    have hplain : s.loadStage i = .plain := by
      rcases hp with hp | ⟨hp, hslot⟩
      · simp only [State.loadStage, hl, hz, hp, if_true]
      · simp only [State.loadStage, hl, hz, hp, hslot, if_true, Bool.false_eq_true, if_false]
    rw [step_of_loadStage_plain ha hd hplain, hu, onNext]
  case delayed =>
    intro e
    have hdelayed : s.loadStage i = .delayed d := by
      rcases hp with hp | ⟨hp, hslot⟩
      · simp only [State.loadStage, hl, hz, hp, if_true]
      · simp only [State.loadStage, hl, hz, hp, hslot, if_true]
    have hstep := step_of_loadStage_delayed ha hd hdelayed
    have hheld : e.ctx.held = some ⟨d.reg, s.readReg d.reg⟩ := rfl
    refine ⟨holdBack_readReg hreg s.executing, fun why hwhy => ?_, fun u hu => ?_⟩
    · rw [hstep, hwhy, onNext]
    · intro writesItself
      have hok : ExecOk e u := exec_fine i e u hu
      refine ⟨u.settleLoad i, by rw [hstep, hu, onNext], fun htrap => ?trapped, fun htrap => ?completed⟩
      case trapped =>
        obtain ⟨hnone, hgpr⟩ := hok.of_trapped rfl htrap
        rw [settleLoad_none hnone]
        refine ⟨rfl, fun hfw => ?_⟩
        have hland : u.readReg d.reg = e.landHeld.readReg d.reg := by unfold State.readReg; rw [hgpr hfw]
        rw [hland, landHeld_readReg hheld hreg, if_pos rfl]
      case completed =>
        have hu' : u.ctx.held = some ⟨d.reg, s.readReg d.reg⟩ := by rw [hok.ctx_of_not_trapped htrap, hheld]
        have hwrote : u.wrote i d.reg = true ↔ writesItself := by rw [wrote_iff, hok.keeps.params]; rfl
        refine ⟨settleLoad_eq u i, fun hw r => ?_, fun hw r => ?_⟩
        · rw [settleLoad_readReg hu' hreg, if_pos (hwrote.mpr hw)]
        · rw [settleLoad_readReg hu' hreg, if_neg (mt hwrote.mp hw)]
          split
          · next hr => rw [hr]
          · rfl

/-! ### The cycle counter (R370, R355) -/

/-- What a step leaves of the cycle count, the parameters and the fetched word, whatever it did in between. -/
theorem endStep_bookkeeping {s u : State} {w : Word} (k : Keeps (s.startStep w) u) :
    u.endStep.cycle = s.cycle + 1 ∧ u.endStep.params = s.params ∧ u.endStep.code = w := by
  obtain ⟨⟨hparams, hcycle, hcode⟩, -⟩ := endStep_spec u
  exact ⟨hcycle.trans k.cycle, hparams.trans k.params, hcode.trans k.code⟩

/-- Settles O11: each way a step goes on starts with the count and ends with the step. -/
theorem stepBookkeeping : Obligations.StepBookkeeping := by
  intro s t hstep
  rcases step_cases hstep with ⟨hun, -, rfl⟩ | ⟨-, -, rfl⟩ | ⟨-, i, -, -, u, hu, rfl⟩ | ⟨-, i, d, -, -, u, hu, rfl⟩
  case inl =>
    obtain ⟨hcycle, hparams, -⟩ := endStep_bookkeeping (raiseAddress_keeps (s.startStep s.code) .adEL s.pc)
    exact ⟨hcycle, hparams, fun ha => by cases ha.symm.trans hun⟩
  case inr.inl =>
    obtain ⟨hcycle, hparams, hcode⟩ := endStep_bookkeeping (.refl s.executing)
    exact ⟨hcycle, hparams, fun _ => hcode⟩
  case inr.inr.inl =>
    obtain ⟨hcycle, hparams, hcode⟩ := endStep_bookkeeping (exec_fine i _ u hu).keeps
    exact ⟨hcycle, hparams, fun _ => hcode⟩
  case inr.inr.inr =>
    obtain ⟨hcycle, hparams, hcode⟩ :=
      endStep_bookkeeping (((holdBack_keeps s.executing d).trans (exec_fine i _ u hu).keeps).trans (settleLoad_keeps u i))
    exact ⟨hcycle, hparams, fun _ => hcode⟩

/-- `stepCycles` goes on by going on after one step. -/
theorem stepCycles_succ_next {n : Nat} {s t : State} :
    State.stepCycles (n + 1) s = .next t ↔ ∃ u, step s = .next u ∧ State.stepCycles n u = .next t := by
  rw [State.stepCycles]
  cases step s <;> simp

/-- Settles O57: by induction on the number of steps. -/
theorem stepCyclesCounts : Obligations.StepCyclesCounts := by
  intro n
  induction n with
  | zero =>
    rintro s t ⟨⟩
    exact (BitVec.add_zero _).symm
  | succ n ih =>
    intro s t h
    obtain ⟨u, hu, ht⟩ := stepCycles_succ_next.mp h
    rw [ih u t ht, (stepBookkeeping s u hu).1, BitVec.add_assoc, BitVec.add_comm 1, BitVec.ofNat_add n 1]
    rfl

end Sys2Proof.Machine

/-! ## What holds of every instruction: when it stops, and what it does not look at (60_exceptions.md R251, R280; 70_reset_and_hazards.md R360)

The instructions by whether they can stop; then two runs of one instruction, on states that differ in a general register it does
not read, or in Coprocessor 0. -/

namespace Sys2Proof.Machine

/-! ### When an instruction stops (R251; 44_branch_jump.md R196, 20_memory.md R77) -/

theorem exists_next_ite (c : Prop) [Decidable c] (t u : State) :
    ∃ v, (if c then .next t else .next u : Host.Outcome State Fault Refusal) = .next v := by
  split
  · exact ⟨t, rfl⟩
  · exact ⟨u, rfl⟩

theorem branchLinkIf_eq_transfer (s : State) (c : Bool) (imm : Half) :
    ∃ (u : State) (d : Slot), s.branchLinkIf c imm = u.transfer d ∧ u.inDelaySlot = s.inDelaySlot := by
  unfold State.branchLinkIf
  split
  · exact ⟨s.writeReg 31 s.linkValue, _, rfl, rfl⟩
  · exact ⟨s, _, rfl, rfl⟩

/-- Every control transfer ends by recording its slot state, after a link or not. -/
theorem exec_of_isTransfer {i : Instr} (ht : i.isTransfer = true) (s : State) :
    ∃ (u : State) (d : Slot), exec i s = u.transfer d ∧ u.inDelaySlot = s.inDelaySlot := by
  cases i with
  | j | jr | beq | bne | blez | bgtz | bltz | bgez => exact ⟨s, _, rfl, rfl⟩
  | jal | jalr => exact ⟨s.writeReg _ _, _, rfl, rfl⟩
  | bltzal | bgezal => exact branchLinkIf_eq_transfer s _ _
  | _ => cases ht

/-- The instructions that ask for alignment are the wider loads and stores. -/
theorem exec_of_alignedAccess {i : Instr} {w : Width} {b : Reg} {o : Half} (ha : i.alignedAccess = some (w, b, o))
    (s : State) :
    (∃ rt ext, exec i s = s.loadInto b rt o w ext) ∨ ∃ rt, exec i s = s.storeFrom b rt o w := by
  cases i with
  | lh => cases ha; exact .inl ⟨_, _, exec_lh _ _ _ s⟩
  | lhu => cases ha; exact .inl ⟨_, _, exec_lhu _ _ _ s⟩
  | lw => cases ha; exact .inl ⟨_, _, exec_lw _ _ _ s⟩
  | sh => cases ha; exact .inr ⟨_, exec_sh _ _ _ s⟩
  | sw => cases ha; exact .inr ⟨_, exec_sw _ _ _ s⟩
  | _ => cases ha

section Stops

variable {s : State} {base rt : Reg} {offset : Half} {w : Width} {ext : Word → Word}

theorem loadInto_completes (hk : ∀ r, s.accessKind (s.effAddr base offset) w ≠ .stop r) :
    ∃ t, s.loadInto base rt offset w ext = .next t := by
  unfold State.loadInto
  dsimp only
  split
  case h_5 r he _ => exact absurd he (hk r)
  all_goals exact ⟨_, rfl⟩

theorem storeFrom_completes_of_kind (hk : ∀ r, s.accessKind (s.effAddr base offset) w ≠ .stop r) :
    ∃ t, s.storeFrom base rt offset w = .next t := by
  unfold State.storeFrom
  dsimp only
  split
  case h_4 r he => exact absurd he (hk r)
  all_goals exact ⟨_, rfl⟩

theorem loadInto_ne_fault (f : Fault) : s.loadInto base rt offset w ext ≠ .fault f := by
  unfold State.loadInto
  dsimp only
  split <;> nofun

theorem storeFrom_ne_fault (f : Fault) : s.storeFrom base rt offset w ≠ .fault f := by
  unfold State.storeFrom
  dsimp only
  split <;> nofun

/-- R77: an access that is aligned, traps, or stays bytewise in its store has a meaning. -/
theorem accessKind_ne_stop {a : Word} (h : alignedFor w a = true ∨ s.params.misaligned = .addressError ∨
    (s.params.misaligned = .bytewise ∧ s.fitsStore a w = true)) (r : Refusal) : s.accessKind a w ≠ .stop r := by
  unfold State.accessKind
  split
  · nofun
  · next hal =>
    rcases h.resolve_left hal with hp | ⟨hp, hf⟩
    · rw [hp]; nofun
    · rw [hp, hf]; nofun

end Stops

/-- A byte is always aligned. -/
theorem accessKind_byte (s : State) (a : Word) : s.accessKind a .byte = .aligned := accessKind_aligned (Nat.mod_one _)

theorem accessKind_byte_ne_stop (s : State) (a : Word) (r : Refusal) : s.accessKind a .byte ≠ .stop r := by
  rw [accessKind_byte]
  nofun

/-- Every instruction but a transfer and an access that asks for alignment completes. -/
theorem exec_completes {i : Instr} (ht : i.isTransfer = false) (ha : i.alignedAccess = none) (s : State) :
    ∃ t, exec i s = .next t := by
  cases i with
  | addi | add | sub | div | divu | lwl | lwr | mfc0 | cfc0 | brk => exact exists_next_ite _ _ _
  | addiu | slti | sltiu | andi | ori | xori | lui | addu | subu | and | or | xor | nor | slt | sltu | sll | srl | sra | sllv
  | srlv | srav | mfhi | mflo | mult | multu | mthi | mtlo | swl | swr | syscall | mtc0 | ctc0 | rfe => exact ⟨_, rfl⟩
  | lb => rw [exec_lb]; exact loadInto_completes (accessKind_byte_ne_stop s _)
  | lbu => rw [exec_lbu]; exact loadInto_completes (accessKind_byte_ne_stop s _)
  | sb => rw [exec_sb]; exact storeFrom_completes_of_kind (accessKind_byte_ne_stop s _)
  | j | jal | jr | jalr | beq | bne | blez | bgtz | bltz | bgez | bltzal | bgezal => cases ht
  | lh | lhu | lw | sh | sw => cases ha

theorem transfer_ne_fault (s : State) (d : Slot) (f : Fault) : s.transfer d ≠ .fault f := by
  rcases transfer_cases s d with ⟨-, e⟩ | ⟨-, e⟩ <;> rw [e] <;> nofun

theorem exec_ne_fault (i : Instr) (s : State) (f : Fault) : exec i s ≠ .fault f := by
  cases ht : i.isTransfer with
  | true =>
    obtain ⟨u, d, he, -⟩ := exec_of_isTransfer ht s
    exact he ▸ transfer_ne_fault u d f
  | false =>
    cases ha : i.alignedAccess with
    | none =>
      obtain ⟨t, he⟩ := exec_completes ht ha s
      rw [he]
      nofun
    | some access =>
      obtain ⟨w, b, o⟩ := access
      rcases exec_of_alignedAccess ha s with ⟨rt, ext, he⟩ | ⟨rt, he⟩
      · exact he ▸ loadInto_ne_fault f
      · exact he ▸ storeFrom_ne_fault f

theorem exec_stop {i : Instr} {s : State} {w : Width} {b : Reg} {o : Half} {r : Refusal}
    (hp : s.params.loadDelay ≠ .lineage) (ha : i.alignedAccess = some (w, b, o))
    (hk : s.accessKind (s.effAddr b o) w = .stop r) : exec i s = .refused r := by
  rcases exec_of_alignedAccess ha s with ⟨rt, ext, he⟩ | ⟨rt, he⟩ <;> rw [he]
  · exact loadInto_stop rfl hk (lineageSkips_of_ne_lineage hp rt false)
  · exact storeFrom_stop rfl hk

/-- Settles O13: transfers, accesses that ask for alignment, and the rest. -/
theorem whenInstructionsStop : Obligations.WhenInstructionsStop := by
  refine fun i s => ⟨exec_ne_fault i s, fun ht hd => ?transfer, fun hp w b o ha hal => ?misaligned, fun hslot hal => ?goesOn⟩
  case transfer =>
    obtain ⟨u, d, he, hu⟩ := exec_of_isTransfer ht s
    rw [he]
    exact if_pos (hu.trans hd)
  case misaligned =>
    have hal : (s.effAddr b o).toNat % widthBytes w ≠ 0 := beq_eq_false_iff_ne.mp hal
    refine ⟨fun hm => exec_stop hp ha (accessKind_refuse hal hm), fun hm hf => exec_stop hp ha ?_⟩
    rw [accessKind_bytewise hal hm, hf]
    rfl
  case goesOn =>
    have hnext : ∃ t, exec i s = .next t := by
      cases ht : i.isTransfer with
      | true =>
        obtain ⟨u, d, he, hu⟩ := exec_of_isTransfer ht s
        exact ⟨_, he.trans (transfer_of_not_inDelaySlot (hu.trans (hslot ht)) d)⟩
      | false =>
        cases ha : i.alignedAccess with
        | none => exact exec_completes ht ha s
        | some access =>
          obtain ⟨w, b, o⟩ := access
          rcases exec_of_alignedAccess ha s with ⟨rt, ext, he⟩ | ⟨rt, he⟩ <;> rw [he]
          · exact loadInto_completes (accessKind_ne_stop (hal w b o ha))
          · exact storeFrom_completes_of_kind (accessKind_ne_stop (hal w b o ha))
    obtain ⟨t, ht⟩ := hnext
    have k := (exec_fine i s t ht).keeps
    exact ⟨t, ht, k.params, k.cycle, k.code⟩

/-! ### The bus and the counters do not look at the register files -/

/-- `s` with both register files replaced. -/
def State.mapFiles (s : State) (g k : Vector Word 32 → Vector Word 32) : State := { s with gpr := g s.gpr, cop0 := k s.cop0 }

section MapFiles

variable (s : State) (g k : Vector Word 32 → Vector Word 32)

theorem mapFiles_ioWord (o : Nat) : (s.mapFiles g k).ioWord o = s.ioWord o := rfl

theorem mapFiles_setIoWord (o : Nat) (v : Word) : (s.mapFiles g k).setIoWord o v = (s.setIoWord o v).mapFiles g k := rfl

theorem fireIfDue_mapFiles (i : Fin 4) : (s.mapFiles g k).fireIfDue i = (s.fireIfDue i).mapFiles g k := by
  unfold State.fireIfDue
  split
  · next hd => rw [if_pos (show counterDue s.cycle s.ctr[i] = true from hd)]; split <;> rfl
  · next hd => rw [if_neg (show ¬counterDue s.cycle s.ctr[i] = true from hd)]

theorem catchUp_mapFiles : (s.mapFiles g k).catchUp = s.catchUp.mapFiles g k := by
  simp only [State.catchUp, fireIfDue_mapFiles]

theorem dmaTransfer_mapFiles (madr bcr chcr : Word) :
    (s.mapFiles g k).dmaTransfer madr bcr chcr = (s.dmaTransfer madr bcr chcr).mapFiles g k := by
  unfold State.dmaTransfer
  dsimp only
  split <;> rfl

theorem dmaComplete_mapFiles : (s.mapFiles g k).dmaComplete = s.dmaComplete.mapFiles g k := by
  unfold State.dmaComplete
  dsimp only
  rw [mapFiles_ioWord, mapFiles_setIoWord, mapFiles_ioWord, mapFiles_setIoWord]
  split <;> rfl

theorem dmaStartTest_mapFiles : (s.mapFiles g k).dmaStartTest = s.dmaStartTest.mapFiles g k := by
  unfold State.dmaStartTest
  simp only [mapFiles_ioWord, dmaTransfer_mapFiles, dmaComplete_mapFiles]
  split <;> rfl

theorem hwWrite_mapFiles (a : Word) (w : Width) (v : Word) :
    (s.mapFiles g k).hwWrite a w v = (s.hwWrite a w v).mapFiles g k := by
  unfold State.hwWrite
  dsimp only
  cases w with
  | byte => rfl
  | half => cases hwReg (pageOffset a) <;> rfl
  | word =>
    cases hwReg (pageOffset a) with
    | d4Chcr => exact dmaStartTest_mapFiles (s.setMem (s.mem.store .io (pageOffset a) .word v)) g k
    | iStat | count | mode | target | spu | raw => rfl

theorem memWrite_mapFiles (a : Word) (w : Width) (v : Word) :
    (s.mapFiles g k).memWrite a w v = (s.memWrite a w v).mapFiles g k := by
  have hresolve : (s.mapFiles g k).resolve a = s.resolve a := rfl
  unfold State.memWrite
  split
  · exact hwWrite_mapFiles s g k a w v
  · rw [hresolve]
    cases s.resolve a with
    | some p => rfl
    | none =>
      dsimp only
      split
      · rw [cacheControl_eq, cacheControl_eq]; rfl
      · rfl

theorem memRead_mapFiles (a : Word) (w : Width) :
    (s.mapFiles g k).memRead a w = ((s.memRead a w).1, (s.memRead a w).2.mapFiles g k) := by
  unfold State.memRead State.hwRead
  dsimp only
  split
  · cases w with
    | byte => rfl
    | half | word => cases hwReg (pageOffset a) <;> rfl
  · rfl

theorem rawWrite_mapFiles (a : Word) (w : Width) (v : Word) :
    (s.mapFiles g k).rawWrite a w v = (s.rawWrite a w v).mapFiles g k := by
  have hresolve : (s.mapFiles g k).resolve a = s.resolve a := rfl
  unfold State.rawWrite
  rw [hresolve]
  cases s.resolve a <;> rfl

end MapFiles

/-- Whether a load is skipped depends on nothing but the interrupt condition and the memory that the evaluation leaves. -/
theorem lineageSkips_congr {s t : State} (hp : t.params = s.params) (hc : t.ctx = s.ctx)
    (hi : s.params.loadDelay = .lineage → t.catchUp.interruptCondition = s.catchUp.interruptCondition)
    (hf : ∀ a, t.catchUp.fetch a = s.catchUp.fetch a) (r : Reg) (merging : Bool) :
    t.lineageSkips r merging = s.lineageSkips r merging := by
  by_cases hl : s.params.loadDelay = .lineage
  · simp only [State.lineageSkips, hp, hc, hi hl, hf]
  · rw [lineageSkips_of_ne_lineage hl, lineageSkips_of_ne_lineage (hp ▸ hl)]

/-! ### A register that an instruction neither reads nor writes (R360) -/

section UnreadRegister

theorem writeReg_comm {r q : Reg} (h : q ≠ r) (s : State) (v x : Word) :
    (s.writeReg r v).writeReg q x = (s.writeReg q x).writeReg r v := by
  have hgpr : gprSet (gprSet s.gpr r v) q x = gprSet (gprSet s.gpr q x) r v := by
    unfold gprSet
    by_cases hr : r = 0#5
    · simp only [hr, if_true]
    · by_cases hq : q = 0#5
      · simp only [hq, if_true]
      · simp only [hr, hq, if_false]
        exact Vector.set_comm _ _ (reg_toNat_ne (Ne.symm h))
  unfold State.writeReg
  rw [hgpr]

variable {s : State} {r : Reg} {v : Word}

theorem memWrite_writeReg (a : Word) (w : Width) (x : Word) :
    (s.writeReg r v).memWrite a w x = (s.memWrite a w x).writeReg r v :=
  memWrite_mapFiles s (gprSet · r v) id a w x

theorem rawWrite_writeReg (a : Word) (w : Width) (x : Word) :
    (s.writeReg r v).rawWrite a w x = (s.rawWrite a w x).writeReg r v :=
  rawWrite_mapFiles s (gprSet · r v) id a w x

theorem memRead_writeReg (a : Word) (w : Width) :
    (s.writeReg r v).memRead a w = ((s.memRead a w).1, (s.memRead a w).2.writeReg r v) :=
  memRead_mapFiles s (gprSet · r v) id a w

theorem SameForEvaluation.writeReg (s : State) (r : Reg) (v : Word) : SameForEvaluation s (s.writeReg r v) :=
  ⟨gprSet s.gpr r v, s.pc, s.loadDelay, s.spuCalls, rfl⟩

theorem lineageSkips_writeReg (q : Reg) (merging : Bool) :
    (s.writeReg r v).lineageSkips q merging = s.lineageSkips q merging :=
  have h := (SameForEvaluation.writeReg s r v).catchUp
  lineageSkips_congr (writeReg_params s r v) (writeReg_ctx s r v) (fun _ => h.interruptCondition) h.fetch q merging

theorem finishLoad_writeReg {rt : Reg} (h : rt ≠ r) (x : Word) (merging : Bool) :
    (s.writeReg r v).finishLoad rt x merging = (s.finishLoad rt x merging).writeReg r v := by
  unfold State.finishLoad
  rw [writeReg_comm h, readReg_writeReg_ne s r rt v h]
  rfl

variable (hf : s.params.firmware = .absent) (hh : ∀ h, s.ctx.held = some h → h.reg ≠ r)

include hh in
theorem landHeld_writeReg :
    (s.writeReg r v).landHeld = s.landHeld.writeReg r v := by
  cases hc : s.ctx.held with
  | none => rw [landHeld_none hc, landHeld_none (s := s.writeReg r v) hc]
  | some p =>
    rw [landHeld_some hc, landHeld_some (s := s.writeReg r v) hc, writeReg_comm (hh p hc)]
    rfl

include hf hh in
/-- With no firmware agent a trap entry reads no general register, and writes none but that of a load held back. -/
theorem raise_writeReg (c : Cause) (bd : Bool)
    (resume : Word) : (s.writeReg r v).raise c bd resume = (s.raise c bd resume).writeReg r v := by
  rw [raise_absent s c bd resume hf, raise_absent (s.writeReg r v) c bd resume hf]
  unfold State.trapRegisters
  rw [landHeld_writeReg hh]
  apply State.eq_of_fields <;> simp

/-- The outcome `o'` on `s.writeReg r v` is the outcome `o` on `s` but for that register. -/
def UnreadIn (r : Reg) (v : Word) (o o' : Host.Outcome State Fault Refusal) : Prop := o' = onNext (fun t => t.writeReg r v) o

include hf hh in
theorem UnreadIn.raiseHere (c : Cause) :
    UnreadIn r v (.next (s.raiseHere c)) (.next ((s.writeReg r v).raiseHere c)) :=
  congrArg Host.Outcome.next (raise_writeReg hf hh c s.bdFlag s.ia)

include hf hh in
theorem UnreadIn.raiseAddress (c : Cause)
    (a : Word) : UnreadIn r v (.next (s.raiseAddress c a)) (.next ((s.writeReg r v).raiseAddress c a)) :=
  UnreadIn.raiseHere (s := s.writeCop0 badVAddrReg a) hf hh c

theorem UnreadIn.result {rd : Reg} {x x' : Word} (h : rd ≠ r) (hx : x' = x) :
    UnreadIn r v (s.result rd x) ((s.writeReg r v).result rd x') := by
  subst hx
  exact congrArg Host.Outcome.next (writeReg_comm h s v x')

theorem UnreadIn.ite {c : Prop} [Decidable c] {o₁ o₂ o₁' o₂' : Host.Outcome State Fault Refusal} (h₁ : UnreadIn r v o₁ o₁')
    (h₂ : UnreadIn r v o₂ o₂') : UnreadIn r v (if c then o₁ else o₂) (if c then o₁' else o₂') := by
  split
  · exact h₁
  · exact h₂

include hf hh in
theorem UnreadIn.resultOrOverflow {rd : Reg}
    {x x' : Word} {ovf ovf' : Bool} (h : rd ≠ r) (hx : x' = x) (ho : ovf' = ovf) :
    UnreadIn r v (s.resultOrOverflow rd x ovf) ((s.writeReg r v).resultOrOverflow rd x' ovf') := by
  subst ho
  exact .ite (.raiseHere hf hh .overflow) (.result h hx)

theorem UnreadIn.transfer {d d' : Slot} (hd : d' = d) : UnreadIn r v (s.transfer d) ((s.writeReg r v).transfer d') := by
  subst hd
  exact .ite rfl rfl

theorem UnreadIn.transferLink {q : Reg} {d d' : Slot} (h : q ≠ r) (hd : d' = d) :
    UnreadIn r v (s.transferLink q d) ((s.writeReg r v).transferLink q d') := by
  have hlink : (s.writeReg r v).transferLink q d' = ((s.writeReg q s.linkValue).writeReg r v).transfer d' :=
    congrArg (State.transfer · d') (writeReg_comm h s v s.linkValue)
  rw [hlink]
  exact .transfer hd

theorem UnreadIn.branchIf {c c' : Bool} (hc : c' = c) (imm : Half) :
    UnreadIn r v (s.branchIf c imm) ((s.writeReg r v).branchIf c' imm) := by
  subst hc
  exact .transfer rfl

theorem UnreadIn.branchLinkIf {c c' : Bool} (h : 31 ≠ r) (hc : c' = c) (imm : Half) :
    UnreadIn r v (s.branchLinkIf c imm) ((s.writeReg r v).branchLinkIf c' imm) := by
  subst hc
  exact .ite (.transferLink h rfl) (.transfer rfl)

theorem UnreadIn.finishLoad {rt : Reg} (h : rt ≠ r) (x : Word) (merging : Bool) :
    UnreadIn r v (.next (s.finishLoad rt x merging)) (.next ((s.writeReg r v).finishLoad rt x merging)) :=
  congrArg Host.Outcome.next (finishLoad_writeReg h x merging)

include hf hh in
theorem UnreadIn.loadInto {base rt : Reg}
    (hb : base ≠ r) (h : rt ≠ r) (offset : Half) (w : Width) (ext : Word → Word) :
    UnreadIn r v (s.loadInto base rt offset w ext) ((s.writeReg r v).loadInto base rt offset w ext) := by
  have ha : (s.writeReg r v).effAddr base offset = s.effAddr base offset :=
    congrArg (· + sext16 offset) (readReg_writeReg_ne s r base v hb)
  have hk (a : Word) : (s.writeReg r v).accessKind a w = s.accessKind a w := rfl
  unfold State.loadInto
  dsimp only
  rw [ha, hk, lineageSkips_writeReg, memRead_writeReg]
  cases s.accessKind (s.effAddr base offset) w with
  | addressError => exact .raiseAddress hf hh .adEL _
  | aligned =>
    cases s.lineageSkips rt false with
    | true => rfl
    | false => exact .finishLoad (s := (s.memRead _ w).2) h _ false
  | bytewise =>
    cases s.lineageSkips rt false with
    | true => rfl
    | false => exact .finishLoad h _ false
  | stop => cases s.lineageSkips rt false <;> rfl

theorem UnreadIn.loadMerge {base rt : Reg} (hb : base ≠ r) (h : rt ≠ r) (offset : Half) (merge : Nat → Word → Word → Word) :
    UnreadIn r v (s.loadMerge base rt offset merge) ((s.writeReg r v).loadMerge base rt offset merge) := by
  have ha : (s.writeReg r v).effAddr base offset = s.effAddr base offset :=
    congrArg (· + sext16 offset) (readReg_writeReg_ne s r base v hb)
  unfold State.loadMerge
  dsimp only
  rw [ha, lineageSkips_writeReg, memRead_writeReg, readReg_writeReg_ne s r rt v h]
  exact .ite rfl (.finishLoad (s := (s.memRead _ .word).2) h _ true)

include hf hh in
theorem UnreadIn.storeFrom {base rt : Reg}
    (hb : base ≠ r) (h : rt ≠ r) (offset : Half) (w : Width) :
    UnreadIn r v (s.storeFrom base rt offset w) ((s.writeReg r v).storeFrom base rt offset w) := by
  have ha : (s.writeReg r v).effAddr base offset = s.effAddr base offset :=
    congrArg (· + sext16 offset) (readReg_writeReg_ne s r base v hb)
  have hk (a : Word) : (s.writeReg r v).accessKind a w = s.accessKind a w := rfl
  unfold State.storeFrom
  dsimp only
  rw [ha, hk, readReg_writeReg_ne s r rt v h]
  cases s.accessKind (s.effAddr base offset) w with
  | aligned => exact congrArg Host.Outcome.next (memWrite_writeReg _ w _)
  | addressError => exact .raiseAddress hf hh .adES _
  | bytewise => exact congrArg Host.Outcome.next (rawWrite_writeReg _ w _)
  | stop => rfl

theorem UnreadIn.storeMerge {base rt : Reg} (hb : base ≠ r) (h : rt ≠ r) (offset : Half) (merge : Nat → Word → Word → Word) :
    UnreadIn r v (s.storeMerge base rt offset merge) ((s.writeReg r v).storeMerge base rt offset merge) := by
  have ha : (s.writeReg r v).effAddr base offset = s.effAddr base offset :=
    congrArg (· + sext16 offset) (readReg_writeReg_ne s r base v hb)
  unfold State.storeMerge
  dsimp only
  rw [ha, memRead_writeReg, readReg_writeReg_ne s r rt v h]
  exact congrArg Host.Outcome.next (memWrite_writeReg (s := (s.memRead _ .word).2) _ .word _)

theorem UnreadIn.moveFromCop0 {rt : Reg} (h : rt ≠ r) (rd : Reg) :
    UnreadIn r v (s.moveFromCop0 rt rd) ((s.writeReg r v).moveFromCop0 rt rd) := by
  unfold State.moveFromCop0
  rw [lineageSkips_writeReg]
  exact .ite rfl (.finishLoad h _ false)

end UnreadRegister

theorem exec_div (rs rt : Reg) (s : State) : exec (.div rs rt) s =
    if s.readReg rt = 0#32 then .next s
    else .next (s.setHiLo (remSigned (s.readReg rs) (s.readReg rt)) (quotSigned (s.readReg rs) (s.readReg rt))) := rfl

theorem exec_divu (rs rt : Reg) (s : State) : exec (.divu rs rt) s =
    if s.readReg rt = 0#32 then .next s
    else .next (s.setHiLo (remUnsigned (s.readReg rs) (s.readReg rt)) (quotUnsigned (s.readReg rs) (s.readReg rt))) := rfl

/-- Settles O10: the operands read the same before and after, and each shared operation passes the register through. -/
theorem unreadRegistersDoNotMatter : Obligations.UnreadRegistersDoNotMatter := by
  intro i s r v hf hunread hunwritten hh
  change UnreadIn r v (exec i s) (exec i (s.writeReg r v))
  have hn (q : Reg) (hq : q ∈ regsRead s.params i) : q ≠ r := fun e => hunread (e ▸ hq)
  have hr (q : Reg) (hq : q ∈ regsRead s.params i) : (s.writeReg r v).readReg q = s.readReg q :=
    readReg_writeReg_ne s r q v (hn q hq)
  have hw (q : Reg) (hq : regWritten i = some q) : q ≠ r := fun e => hunwritten (e ▸ hq)
  cases i with
  | addi rs rt imm =>
    have hrs := hr rs (.head _)
    exact .resultOrOverflow hf hh (hw rt rfl) (by rw [hrs]) (by rw [hrs])
  | addiu rs rt | slti rs rt | sltiu rs rt | andi rs rt | ori rs rt | xori rs rt =>
    exact .result (hw rt rfl) (by rw [hr rs (.head _)])
  | lui rd | mfhi rd | mflo rd => exact .result (hw rd rfl) rfl
  | add rs rt rd | sub rs rt rd =>
    have hrs := hr rs (.head _)
    have hrt := hr rt (.tail _ (.head _))
    exact .resultOrOverflow hf hh (hw rd rfl) (by rw [hrs, hrt]) (by rw [hrs, hrt])
  | addu rs rt rd | subu rs rt rd | and rs rt rd | or rs rt rd | xor rs rt rd | nor rs rt rd | slt rs rt rd | sltu rs rt rd
  | sllv rs rt rd | srlv rs rt rd | srav rs rt rd =>
    exact .result (hw rd rfl) (by rw [hr rs (.head _), hr rt (.tail _ (.head _))])
  | sll rt rd | srl rt rd | sra rt rd => exact .result (hw rd rfl) (by rw [hr rt (.head _)])
  | mult rs rt =>
    rw [exec_mult, exec_mult, hr rs (.head _), hr rt (.tail _ (.head _))]
    rfl
  | multu rs rt =>
    rw [exec_multu, exec_multu, hr rs (.head _), hr rt (.tail _ (.head _))]
    rfl
  | div rs rt =>
    rw [exec_div, exec_div, hr rs (.head _), hr rt (.tail _ (.head _))]
    exact .ite rfl rfl
  | divu rs rt =>
    rw [exec_divu, exec_divu, hr rs (.head _), hr rt (.tail _ (.head _))]
    exact .ite rfl rfl
  | mthi rs =>
    rw [exec_mthi, exec_mthi, hr rs (.head _)]
    rfl
  | mtlo rs =>
    rw [exec_mtlo, exec_mtlo, hr rs (.head _)]
    rfl
  | j => exact .transfer rfl
  | jal => exact .transferLink (hw 31 rfl) rfl
  | jr rs => exact .transfer (by rw [hr rs (.head _)])
  | jalr rs rd => exact .transferLink (hw rd rfl) (by rw [hr rs (.head _)])
  | beq rs rt imm | bne rs rt imm => exact .branchIf (by rw [hr rs (.head _), hr rt (.tail _ (.head _))]) imm
  | blez rs imm | bgtz rs imm | bltz rs imm | bgez rs imm => exact .branchIf (by rw [hr rs (.head _)]) imm
  | bltzal rs imm | bgezal rs imm => exact .branchLinkIf (hw 31 rfl) (by rw [hr rs (.head _)]) imm
  | lb base rt offset =>
    rw [exec_lb, exec_lb]
    exact .loadInto hf hh (hn base (.head _)) (hw rt rfl) offset .byte _
  | lbu base rt offset =>
    rw [exec_lbu, exec_lbu]
    exact .loadInto hf hh (hn base (.head _)) (hw rt rfl) offset .byte _
  | lh base rt offset =>
    rw [exec_lh, exec_lh]
    exact .loadInto hf hh (hn base (.head _)) (hw rt rfl) offset .half _
  | lhu base rt offset =>
    rw [exec_lhu, exec_lhu]
    exact .loadInto hf hh (hn base (.head _)) (hw rt rfl) offset .half _
  | lw base rt offset =>
    rw [exec_lw, exec_lw]
    exact .loadInto hf hh (hn base (.head _)) (hw rt rfl) offset .word id
  | lwl base rt | lwr base rt => exact .loadMerge (hn base (.head _)) (hw rt rfl) _ _
  | sb base rt | sh base rt | sw base rt => exact .storeFrom hf hh (hn base (.head _)) (hn rt (.tail _ (.head _))) _ _
  | swl base rt | swr base rt => exact .storeMerge (hn base (.head _)) (hn rt (.tail _ (.head _))) _ _
  | syscall => exact .raiseHere hf hh .syscall
  | brk => exact .ite (.raiseHere hf hh .breakpoint) rfl
  | mfc0 rt rd | cfc0 rt rd => exact .moveFromCop0 (hw rt rfl) rd
  | mtc0 rt rd =>
    rw [exec_mtc0, exec_mtc0, hr rt (.head _)]
    rfl
  | ctc0 rt rd =>
    rw [exec_ctc0, exec_ctc0, hr rt (.head _)]
    rfl
  | rfe => rfl

/-! ### Coprocessor 0, which makes no instruction privileged (R280) -/

section Unprivileged

/-- `s` with other contents of Coprocessor 0. -/
def State.withCop0 (s : State) (c : Vector Word 32) : State := { s with cop0 := c }

/-- The interrupt condition looks at two bits of Coprocessor 0, the interrupt enables of Status (R260). -/
theorem interruptCondition_mapFiles {s : State} {g k : Vector Word 32 → Vector Word 32}
    (h : ∀ n, n = 0 ∨ n = 10 → ((s.mapFiles g k).readCop0 statusReg).getLsbD n = (s.readCop0 statusReg).getLsbD n) :
    (s.mapFiles g k).interruptCondition = s.interruptCondition := by
  unfold State.interruptCondition
  rw [h 0 (.inl rfl), h 10 (.inr rfl), mapFiles_ioWord, mapFiles_ioWord]

variable {s s' : State} {kept : Reg → Prop}

/-- `t` and `t'`, which an instruction has left from `s` and from `s'`, agree on all that R280 says: in every field but Coprocessor
0, the general registers that are not `kept`, and pc behind a trap whose vector differs; and in what agreed before of Coprocessor
0. Behind a trap with a firmware agent only the step's own variables are compared. -/
def LeftAlike (s s' : State) (kept : Reg → Prop) (t t' : State) : Prop :=
  t'.ctx = t.ctx ∧
  (t.ctx.trapped = false ∨ s.params.firmware = .absent →
    t' = { t with gpr := t'.gpr, cop0 := t'.cop0, pc := t'.pc } ∧
    (∀ r, kept r → t'.readReg r = t.readReg r) ∧
    (t.ctx.trapped = false ∨ (s'.readCop0 12).getLsbD 22 = (s.readCop0 12).getLsbD 22 → t'.pc = t.pc) ∧
    (∀ q, q ≠ statusReg → s'.readCop0 q = s.readCop0 q → t'.readCop0 q = t.readCop0 q) ∧
    ∀ k, 6 ≤ k → (s'.readCop0 12).getLsbD k = (s.readCop0 12).getLsbD k →
      (t'.readCop0 12).getLsbD k = (t.readCop0 12).getLsbD k)

/-- Two outcomes that stop alike, and leave states that are alike. -/
def EndAlike (s s' : State) (kept : Reg → Prop) (o o' : Host.Outcome State Fault Refusal) : Prop :=
  (∀ why, o = .refused why ↔ o' = .refused why) ∧ ∀ t, o = .next t → ∃ t', o' = .next t' ∧ LeftAlike s s' kept t t'

theorem EndAlike.next {t t' : State} (h : LeftAlike s s' kept t t') : EndAlike s s' kept (.next t) (.next t') := by
  refine ⟨fun why => ⟨nofun, nofun⟩, ?_⟩
  rintro _ ⟨⟩
  exact ⟨t', rfl, h⟩

theorem EndAlike.refused (why : Refusal) : EndAlike s s' kept (.refused why) (.refused why) :=
  ⟨fun _ => Iff.rfl, fun _ h => by cases h⟩

theorem EndAlike.ite {c : Prop} [Decidable c] {o₁ o₂ o₁' o₂' : Host.Outcome State Fault Refusal}
    (h₁ : EndAlike s s' kept o₁ o₁') (h₂ : EndAlike s s' kept o₂ o₂') :
    EndAlike s s' kept (if c then o₁ else o₂) (if c then o₁' else o₂') := by
  split
  · exact h₁
  · exact h₂

/-- Coprocessor 0 is left alone. -/
theorem LeftAlike.of_cop0 {t : State} (h : t.cop0 = s.cop0) : LeftAlike s s' kept t (t.withCop0 s'.cop0) := by
  have ht (q : Reg) : t.readCop0 q = s.readCop0 q := by unfold State.readCop0; rw [h]
  refine ⟨rfl, fun _ => ⟨rfl, fun _ _ => rfl, fun _ => rfl, fun q _ hq => ?_, fun k _ hk => ?_⟩⟩
  · rw [ht]; exact hq
  · rw [ht]; exact hk

/-- States that agree wherever `s` and `s'` do can stand for them. -/
theorem LeftAlike.of_agree {u u' t t' : State} (hp : u.params = s.params) (hs : u.readCop0 12 = s.readCop0 12)
    (hs' : u'.readCop0 12 = s'.readCop0 12) (hq : ∀ q, s'.readCop0 q = s.readCop0 q → u'.readCop0 q = u.readCop0 q)
    (h : LeftAlike u u' kept t t') : LeftAlike s s' kept t t' := by
  unfold LeftAlike at h ⊢
  rw [hp, hs, hs'] at h
  obtain ⟨hctx, hleft⟩ := h
  refine ⟨hctx, fun hor => ?_⟩
  obtain ⟨hframe, hregs, hpc, hcop0, hstatus⟩ := hleft hor
  exact ⟨hframe, hregs, hpc, fun q hne h => hcop0 q hne (hq q h), hstatus⟩

variable {c : Vector Word 32}

theorem landHeld_withCop0 : (s.withCop0 c).landHeld = s.landHeld.withCop0 c := by
  cases h : s.ctx.held with
  | none => rw [landHeld_none h, landHeld_none (s := s.withCop0 c) h]
  | some p =>
    rw [landHeld_some h, landHeld_some (s := s.withCop0 c) h]
    rfl

/-- A trap entry copies nothing out of Coprocessor 0 but the vector, and pushes the low six bits of Status. -/
theorem LeftAlike.raise (e : Cause) (bd : Bool) (resume : Word) :
    LeftAlike s (s.withCop0 c) kept (s.raise e bd resume) ((s.withCop0 c).raise e bd resume) := by
  have hctx (v : State) : (v.raise e bd resume).ctx = ⟨v.ctx.consumed, true, none⟩ := (raise_only v e bd resume).2.2.1
  refine ⟨by rw [hctx, hctx]; rfl, fun hor => ?_⟩
  have hnot : ¬(s.raise e bd resume).ctx.trapped = false := by rw [hctx]; nofun
  have hfw := hor.resolve_left hnot
  have ht := trapEntered_raise s e bd resume hfw
  have ht' := trapEntered_raise (s.withCop0 c) e bd resume hfw
  refine ⟨?frame, fun r _ => ?regs, fun h => ?pc, fun q hq h => ?cop0, fun k hk h => ?status⟩
  case frame =>
    rw [ht'.frame, ht.frame]
    rfl
  case regs =>
    rw [ht'.regs, ht.regs, landHeld_withCop0]
    rfl
  case pc =>
    rw [ht'.pc, ht.pc]
    exact congrArg (fun b : Bool => if b then _ else _) (h.resolve_left hnot)
  case cop0 =>
    by_cases hcause : q = causeReg
    · rw [hcause, ht'.cause, ht.cause]
    · by_cases hepc : q = epcReg
      · rw [hepc, ht'.epc, ht.epc]
      · rw [ht'.others q hcause hepc hq, ht.others q hcause hepc hq, h]
  case status =>
    have hst := ht.status k
    have hst' := ht'.status k
    rw [if_neg (by omega), if_neg (by omega)] at hst hst'
    exact hst'.trans (h.trans hst.symm)

theorem LeftAlike.writeCop0 (q : Reg) (v : Word) :
    LeftAlike s (s.withCop0 c) kept (s.writeCop0 q v) ((s.withCop0 c).writeCop0 q v) := by
  have hw (p : Reg) (h : (s.withCop0 c).readCop0 p = s.readCop0 p) :
      ((s.withCop0 c).writeCop0 q v).readCop0 p = (s.writeCop0 q v).readCop0 p := by
    rw [readCop0_writeCop0, readCop0_writeCop0, h]
  refine ⟨rfl, fun _ => ⟨rfl, fun _ _ => rfl, fun _ => rfl, fun p _ h => hw p h, fun k _ h => ?_⟩⟩
  rw [readCop0_writeCop0, readCop0_writeCop0]
  split
  · rfl
  · exact h

theorem LeftAlike.rfe : LeftAlike s (s.withCop0 c) kept s.rfe (s.withCop0 c).rfe := by
  refine ⟨rfl, fun _ => ⟨rfl, fun _ _ => rfl, fun _ => rfl, fun q hq h => ?_, fun k hk h => ?_⟩⟩
  · rw [rfe_readCop0, rfe_readCop0, if_neg hq, if_neg hq, h]
  · have hpop (v : State) : (v.rfe.readCop0 12).getLsbD k = (v.readCop0 12).getLsbD k := by
      refine (congrArg (·.getLsbD k) (rfe_readCop0_status v)).trans ?_
      rw [statusPop_getLsbD, if_neg (by omega)]
      rfl
    rw [hpop, hpop, h]

/-- A move from Coprocessor 0 copies the register; the record it leaves does not depend on what was copied. -/
theorem LeftAlike.finishLoad {rt : Reg} (h : ∀ r, kept r → r ≠ rt) (v v' : Word) (merging : Bool) :
    LeftAlike s (s.withCop0 c) kept (s.finishLoad rt v merging) ((s.withCop0 c).finishLoad rt v' merging) := by
  refine ⟨rfl, fun _ => ⟨rfl, fun r hr => ?_, fun _ => rfl, fun q _ hq => hq, fun k _ hk => hk⟩⟩
  exact (readReg_writeReg_ne (s.withCop0 c) rt r v' (h r hr)).trans (readReg_writeReg_ne s rt r v (h r hr)).symm

/-! The shared operations, on `s` and on `s.withCop0 c`. -/

theorem EndAlike.of_cop0 {t : State} (h : t.cop0 = s.cop0) :
    EndAlike s (s.withCop0 c) kept (.next t) (.next (t.withCop0 c)) :=
  .next (.of_cop0 h)

theorem EndAlike.raiseHere (e : Cause) :
    EndAlike s (s.withCop0 c) kept (.next (s.raiseHere e)) (.next ((s.withCop0 c).raiseHere e)) :=
  .next (.raise e s.bdFlag s.ia)

/-- The address that c0[8] records is the same. -/
theorem EndAlike.raiseAddress (e : Cause) (a : Word) :
    EndAlike s (s.withCop0 c) kept (.next (s.raiseAddress e a)) (.next ((s.withCop0 c).raiseAddress e a)) := by
  have hother (v : State) : (v.writeCop0 badVAddrReg a).readCop0 12 = v.readCop0 12 :=
    (readCop0_writeCop0 v badVAddrReg 12 a).trans (if_neg (by decide))
  have hraise := LeftAlike.raise (s := s.writeCop0 badVAddrReg a) (c := ((s.withCop0 c).writeCop0 badVAddrReg a).cop0)
    (kept := kept) e s.bdFlag s.ia
  refine .next (LeftAlike.of_agree (u := s.writeCop0 badVAddrReg a) rfl (hother s) (hother (s.withCop0 c)) (fun q h => ?_) hraise)
  refine (readCop0_writeCop0 (s.withCop0 c) badVAddrReg q a).trans ?_
  rw [readCop0_writeCop0, h]

theorem EndAlike.resultOrOverflow (rd : Reg) (v : Word) (ovf : Bool) :
    EndAlike s (s.withCop0 c) kept (s.resultOrOverflow rd v ovf) ((s.withCop0 c).resultOrOverflow rd v ovf) :=
  .ite (.raiseHere .overflow) (.of_cop0 (t := s.writeReg rd v) rfl)

theorem EndAlike.transfer (d : Slot) : EndAlike s (s.withCop0 c) kept (s.transfer d) ((s.withCop0 c).transfer d) :=
  .ite (.refused _) (.of_cop0 (t := s.setSlot d) rfl)

theorem EndAlike.transferLink (q : Reg) (d : Slot) :
    EndAlike s (s.withCop0 c) kept (s.transferLink q d) ((s.withCop0 c).transferLink q d) :=
  .ite (.refused _) (.of_cop0 (t := (s.writeReg q s.linkValue).setSlot d) rfl)

theorem EndAlike.branchLinkIf (b : Bool) (imm : Half) :
    EndAlike s (s.withCop0 c) kept (s.branchLinkIf b imm) ((s.withCop0 c).branchLinkIf b imm) :=
  .ite (.transferLink 31 _) (.transfer _)

theorem memRead_withCop0 (a : Word) (w : Width) :
    (s.withCop0 c).memRead a w = ((s.memRead a w).1, (s.memRead a w).2.withCop0 c) :=
  memRead_mapFiles s id (fun _ => c) a w

theorem memWrite_withCop0 (a : Word) (w : Width) (v : Word) :
    (s.withCop0 c).memWrite a w v = (s.memWrite a w v).withCop0 c :=
  memWrite_mapFiles s id (fun _ => c) a w v

theorem rawWrite_withCop0 (a : Word) (w : Width) (v : Word) :
    (s.withCop0 c).rawWrite a w v = (s.rawWrite a w v).withCop0 c :=
  rawWrite_mapFiles s id (fun _ => c) a w v

theorem EndAlike.memWrite (a : Word) (w : Width) (v : Word) :
    EndAlike s (s.withCop0 c) kept (.next (s.memWrite a w v)) (.next ((s.withCop0 c).memWrite a w v)) := by
  rw [memWrite_withCop0]
  exact .of_cop0 (memWrite_only s a w v).cop0

theorem EndAlike.storeFrom (base rt : Reg) (offset : Half) (w : Width) :
    EndAlike s (s.withCop0 c) kept (s.storeFrom base rt offset w) ((s.withCop0 c).storeFrom base rt offset w) := by
  have hk (a : Word) : (s.withCop0 c).accessKind a w = s.accessKind a w := rfl
  have ha : (s.withCop0 c).effAddr base offset = s.effAddr base offset := rfl
  unfold State.storeFrom
  dsimp only
  rw [hk, ha]
  cases s.accessKind (s.effAddr base offset) w with
  | aligned => exact .memWrite _ w _
  | addressError => exact .raiseAddress .adES _
  | bytewise =>
    dsimp only
    rw [rawWrite_withCop0]
    exact .of_cop0 (rawWrite_only s _ w _).cop0
  | stop => exact .refused _

theorem EndAlike.storeMerge (base rt : Reg) (offset : Half) (merge : Nat → Word → Word → Word) :
    EndAlike s (s.withCop0 c) kept (s.storeMerge base rt offset merge) ((s.withCop0 c).storeMerge base rt offset merge) := by
  unfold State.storeMerge
  dsimp only
  rw [memRead_withCop0, memWrite_withCop0]
  exact .of_cop0 ((memRead_only s _ .word).trans (memWrite_only _ _ .word _)).cop0

section Loads

variable (hskip : ∀ r merging, (s.withCop0 c).lineageSkips r merging = s.lineageSkips r merging)

include hskip

theorem EndAlike.loadInto (base rt : Reg) (offset : Half) (w : Width) (ext : Word → Word) :
    EndAlike s (s.withCop0 c) kept (s.loadInto base rt offset w ext) ((s.withCop0 c).loadInto base rt offset w ext) := by
  have hk (a : Word) : (s.withCop0 c).accessKind a w = s.accessKind a w := rfl
  have ha : (s.withCop0 c).effAddr base offset = s.effAddr base offset := rfl
  unfold State.loadInto
  dsimp only
  rw [hk, ha, hskip, memRead_withCop0]
  cases s.accessKind (s.effAddr base offset) w with
  | addressError => exact .raiseAddress .adEL _
  | aligned =>
    cases s.lineageSkips rt false with
    | true => exact .of_cop0 rfl
    | false => exact .of_cop0 (t := (s.memRead _ w).2.finishLoad rt _ false) (memRead_only s _ w).cop0
  | bytewise =>
    cases s.lineageSkips rt false with
    | true => exact .of_cop0 rfl
    | false => exact .of_cop0 (t := s.finishLoad rt _ false) rfl
  | stop =>
    cases s.lineageSkips rt false with
    | true => exact .of_cop0 rfl
    | false => exact .refused _

theorem EndAlike.loadMerge (base rt : Reg) (offset : Half) (merge : Nat → Word → Word → Word) :
    EndAlike s (s.withCop0 c) kept (s.loadMerge base rt offset merge) ((s.withCop0 c).loadMerge base rt offset merge) := by
  unfold State.loadMerge
  dsimp only
  rw [hskip, memRead_withCop0]
  exact .ite (.of_cop0 rfl) (.of_cop0 (t := (s.memRead _ .word).2.finishLoad rt _ true) (memRead_only s _ .word).cop0)

theorem EndAlike.moveFromCop0 {rt : Reg} (h : ∀ r, kept r → r ≠ rt) (rd : Reg) :
    EndAlike s (s.withCop0 c) kept (s.moveFromCop0 rt rd) ((s.withCop0 c).moveFromCop0 rt rd) := by
  unfold State.moveFromCop0
  rw [hskip]
  exact .ite (.of_cop0 rfl) (.next (.finishLoad h _ _ false))

end Loads

end Unprivileged

/-- The registers that `i` does not copy out of Coprocessor 0. -/
def notCopied (i : Instr) (r : Reg) : Prop := ∀ rd, i ≠ .mfc0 r rd ∧ i ≠ .cfc0 r rd

/-- Every instruction, by the shared operation it is made of. -/
theorem exec_endAlike (i : Instr) {s : State} {c : Vector Word 32}
    (hskip : ∀ r merging, (s.withCop0 c).lineageSkips r merging = s.lineageSkips r merging) :
    EndAlike s (s.withCop0 c) (notCopied i) (exec i s) (exec i (s.withCop0 c)) := by
  cases i with
  | addi | add | sub => exact .resultOrOverflow _ _ _
  | addiu | slti | sltiu | andi | ori | xori | lui | addu | subu | and | or | xor | nor | slt | sltu | sll | srl | sra | sllv
  | srlv | srav | mfhi | mflo => exact .of_cop0 (t := s.writeReg _ _) rfl
  | mult | multu => exact .of_cop0 (t := s.setHiLo _ _) rfl
  | div | divu => exact .ite (.of_cop0 rfl) (.of_cop0 (t := s.setHiLo _ _) rfl)
  | mthi => exact .of_cop0 (t := s.setHi _) rfl
  | mtlo => exact .of_cop0 (t := s.setLo _) rfl
  | j | jr | beq | bne | blez | bgtz | bltz | bgez => exact .transfer _
  | jal | jalr => exact .transferLink _ _
  | bltzal | bgezal => exact .branchLinkIf _ _
  | lb base rt offset =>
    rw [exec_lb, exec_lb]
    exact .loadInto hskip base rt offset .byte _
  | lbu base rt offset =>
    rw [exec_lbu, exec_lbu]
    exact .loadInto hskip base rt offset .byte _
  | lh base rt offset =>
    rw [exec_lh, exec_lh]
    exact .loadInto hskip base rt offset .half _
  | lhu base rt offset =>
    rw [exec_lhu, exec_lhu]
    exact .loadInto hskip base rt offset .half _
  | lw base rt offset =>
    rw [exec_lw, exec_lw]
    exact .loadInto hskip base rt offset .word id
  | lwl | lwr => exact .loadMerge hskip _ _ _ _
  | sb | sh | sw => exact .storeFrom _ _ _ _
  | swl | swr => exact .storeMerge _ _ _ _
  | syscall => exact .raiseHere .syscall
  | brk => exact .ite (.raiseHere .breakpoint) (.of_cop0 rfl)
  | mfc0 rt rd => exact .moveFromCop0 hskip (fun r h e => (h rd).1 (e ▸ rfl)) rd
  | cfc0 rt rd => exact .moveFromCop0 hskip (fun r h e => (h rd).2 (e ▸ rfl)) rd
  | mtc0 | ctc0 => exact .next (.writeCop0 _ _)
  | rfe => exact .next .rfe

/-- Settles O45: where the interrupt enables decide nothing or agree, the same loads are skipped, and every instruction ends
alike. -/
theorem privilegeNotEnforced : Obligations.PrivilegeNotEnforced := by
  intro i s c s' henables
  have hcop0 (r : Reg) : s.catchUp.readCop0 r = s.readCop0 r := (catchUp_only s).readCop0 r
  have hcatchUp : (s.withCop0 c).catchUp = s.catchUp.mapFiles id fun _ => c := catchUp_mapFiles s id fun _ => c
  refine exec_endAlike i (lineageSkips_congr rfl rfl (fun hp => ?_) fun a => ?_)
  · rw [hcatchUp]
    refine interruptCondition_mapFiles fun k hk => ?_
    rw [hcop0]
    exact henables hp k hk
  · rw [hcatchUp]
    rfl

end Sys2Proof.Machine

/-! ## Interrupts and the firmware agent (60_exceptions.md R259, R260, R268 to R271)

An evaluation takes the interrupt on the two enables of Status, which a trap entry clears; and what the two hand-offs of a SYSCALL
leave. -/

namespace Sys2Proof.Machine

/-! ### The interrupt (R259, R260, R265) -/

theorem interruptCondition_iff (s : State) :
    s.interruptCondition = true ↔ s.ioWord iStatOff &&& s.ioWord iMaskOff ≠ 0 ∧
      (s.readCop0 statusReg).getLsbD 0 = true ∧ (s.readCop0 statusReg).getLsbD 10 = true := by
  simp only [State.interruptCondition, Bool.and_eq_true, bne_iff_ne, and_assoc]

theorem evaluate_of_interrupt {s : State} (h : s.catchUp.interruptCondition = true) :
    s.evaluate = s.catchUp.raise .interrupt false s.catchUp.pc :=
  ((evaluate_cases s).resolve_left fun hno => by cases hno.1.symm.trans h).2

theorem evaluate_of_no_interrupt {s : State} (h : ¬s.catchUp.interruptCondition = true) : s.evaluate = s.catchUp :=
  ((evaluate_cases s).resolve_right fun hyes => h hyes.1).2

/-- The push of a trap entry clears the current interrupt enable (R264), which catching the counters up does not touch. -/
theorem raise_catchUp_no_interrupt {s : State} (hf : s.params.firmware = .absent) (c : Cause) (bd : Bool) (resume : Word) :
    ¬(s.raise c bd resume).catchUp.interruptCondition = true := by
  intro h
  have hclear := (trapEntered_raise s c bd resume hf).status 0
  rw [if_pos (by omega)] at hclear
  obtain ⟨-, hset, -⟩ := (interruptCondition_iff _).mp h
  rw [(catchUp_only _).readCop0, hclear] at hset
  cases hset

/-- Settles O44: the condition as R260 spells it, and a Status that has just been pushed. -/
theorem interruptTaken : Obligations.InterruptTaken := by
  refine fun s => ⟨⟨fun hpending => ?taken, fun hnot => ?notTaken⟩, fun c bd resume hf => ?afterTrap⟩
  case taken =>
    have heval := evaluate_of_interrupt ((interruptCondition_iff _).mpr hpending)
    refine ⟨heval, fun hf => ?_⟩
    rw [heval]
    exact trapEntered_raise s.catchUp .interrupt false s.catchUp.pc ((catchUp_only s).params ▸ hf)
  case notTaken => exact evaluate_of_no_interrupt (mt (interruptCondition_iff _).mp hnot)
  case afterTrap => exact evaluate_of_no_interrupt (raise_catchUp_no_interrupt hf c bd resume)

/-! ### SYSCALL with the firmware agent (R268, R270, R271) -/

/-- The push, bit by bit (R264): bits 3:0 move to 5:2, and bits 1:0 clear. -/
theorem statusPush_getLsbD (v : Word) (k : Nat) :
    (statusPush v).getLsbD k = if k < 2 then false else if k < 6 then v.getLsbD (k - 2) else v.getLsbD k := by
  by_cases hk : k < 32
  · simp only [statusPush, BitVec.getLsbD_or, BitVec.getLsbD_and, BitVec.getLsbD_shiftLeft]
    interval_cases k <;> simp
  · rw [if_neg (by omega), if_neg (by omega), BitVec.getLsbD_of_ge _ k (by omega), BitVec.getLsbD_of_ge v k (by omega)]

/-- The shim's mask (R270): bits 2 and 10 are cleared to enter a critical section, and set to leave it. -/
theorem shimMask_getLsbD (v : Word) {a0 : Word} (h : a0 = 1 ∨ a0 = 2) (k : Nat) :
    (if a0 = 1 then v &&& 0xFFFFFBFB else v ||| 0x00000404).getLsbD k =
      if k = 2 ∨ k = 10 then decide (a0 = 2) else v.getLsbD k := by
  by_cases hk : k < 32
  · rcases h with rfl | rfl
    · simp only [if_true, BitVec.getLsbD_and]
      interval_cases k <;> simp
    · rw [if_neg (by decide), BitVec.getLsbD_or]
      interval_cases k <;> simp
  · rw [if_neg (show ¬(k = 2 ∨ k = 10) by omega), BitVec.getLsbD_of_ge _ k (by omega), BitVec.getLsbD_of_ge v k (by omega)]

/-- Push, mask and pop together: the previous pair is doubled into the old one, and the enables are as the shim sets them. -/
theorem shimStatus_getLsbD (v : Word) {a0 : Word} (h : a0 = 1 ∨ a0 = 2) (k : Nat) :
    (statusPop (if a0 = 1 then statusPush v &&& 0xFFFFFBFB else statusPush v ||| 0x00000404)).getLsbD k =
      if k = 0 ∨ k = 10 then decide (a0 = 2)
      else if k = 4 ∨ k = 5 then v.getLsbD (k - 2) else v.getLsbD k := by
  rw [statusPop_getLsbD, shimMask_getLsbD _ h, shimMask_getLsbD _ h, statusPush_getLsbD, statusPush_getLsbD]
  by_cases hlow : k < 4
  · rw [if_pos hlow, if_neg (show ¬k + 2 < 2 by omega), if_pos (show k + 2 < 6 by omega), if_neg (show ¬(k = 4 ∨ k = 5) by omega)]
    exact if_congr (by omega) rfl rfl
  · rw [if_neg hlow, if_neg (show ¬k < 2 by omega)]
    exact if_congr (by omega) rfl (if_congr (by omega) rfl rfl)

/-- The shim writes pc and Status. -/
theorem syscallShim_eq (s : State) (a0 : Word) :
    s.syscallShim a0 = { s with pc := s.readCop0 epcReg + 4, cop0 := (s.syscallShim a0).cop0 } := rfl

theorem syscallShim_readCop0 (s : State) (a0 : Word) (r : Reg) :
    (s.syscallShim a0).readCop0 r = if r = statusReg then
      statusPop (if a0 = 1 then s.readCop0 statusReg &&& 0xFFFFFBFB else s.readCop0 statusReg ||| 0x00000404)
      else s.readCop0 r :=
  readCop0_writeCop0 (s.setPc (s.readCop0 epcReg + 4)) statusReg r _

/-- With the agent an exception hands over to the shim or to the general handler, after the register writes of the trap entry. -/
theorem raiseHere_hle {s : State} (hf : s.params.firmware = .hle) (c : Cause) : s.raiseHere c =
    if c = .syscall ∧ (s.readReg 4 = 1 ∨ s.readReg 4 = 2) then
      (s.trapRegisters c s.bdFlag s.ia).syscallShim (s.readReg 4)
    else (s.trapRegisters c s.bdFlag s.ia).firmwareHandler c := by
  have hf' : (s.trapRegisters c s.bdFlag s.ia).params.firmware = .hle := (trapRegisters_keeps s c _ _).params ▸ hf
  simp only [State.raiseHere, State.raise, State.firmwareHandOff, hf']

/-- The general handler counts its run, and makes no other. -/
theorem firmwareHandler_firmwareCalls (s : State) (c : Cause) :
    (s.firmwareHandler c).firmwareCalls = s.firmwareCalls + 1 :=
  (firmwareAccesses_only _ (Config.firmware s c).accesses).firmwareCalls

/-- Settles O41: the shim on the registers of the trap entry, then what the general handler leaves alone. -/
theorem firmwareSystemCall : Obligations.FirmwareSystemCall := by
  intro code s hf status
  obtain ⟨hcause, hepc, hstatus, -, -, hothers⟩ := trapRegisters_spec s .syscall s.bdFlag s.ia
  have hframe := trapRegisters_frame s .syscall s.bdFlag s.ia
  have hraise := raiseHere_hle hf .syscall
  refine ⟨fun h => ?shim, fun h1 h2 => ?general⟩
  case shim =>
    rw [if_pos ⟨rfl, h⟩] at hraise
    generalize s.trapRegisters .syscall s.bdFlag s.ia = u at hcause hepc hstatus hothers hframe hraise
    have hother (r : Reg) (hr : r ≠ statusReg) : (u.syscallShim (s.readReg 4)).readCop0 r = u.readCop0 r :=
      (syscallShim_readCop0 u _ r).trans (if_neg hr)
    have hresume : u.readCop0 epcReg = if s.bdFlag then s.pc - 8 else s.pc - 4 := by
      rw [hepc]
      cases s.bdFlag with
      | false => rfl
      | true => exact BitVec.sub_sub s.pc 4 4
    refine ⟨_, (exec_syscall s code).trans (congrArg _ hraise), ?cause, ?epc, ?pc, fun k => ?status,
      fun r hc he hs => ?others, ?frame⟩
    case cause =>
      rw [hother causeReg (by decide), hcause]
      cases s.bdFlag <;> rfl
    case epc => rw [hother epcReg (by decide), hresume]
    case pc =>
      change u.readCop0 epcReg + 4 = _
      rw [hresume]
      cases s.bdFlag with
      | false => exact BitVec.sub_add_cancel s.pc 4
      | true =>
        change s.pc - 8 + 4 = s.pc - 4
        bv_omega
    case status =>
      rw [syscallShim_readCop0, if_pos rfl, hstatus]
      exact shimStatus_getLsbD status h k
    case others => rw [hother r hs, hothers r hc he hs]
    case frame =>
      rw [syscallShim_eq, hframe]
  case general =>
    rw [if_neg (by rintro ⟨-, h | h⟩; exacts [h1 h, h2 h])] at hraise
    obtain ⟨hslot, -, -, k⟩ := firmwareHandler_only (s.trapRegisters .syscall s.bdFlag s.ia) .syscall
    have k := (trapRegisters_keeps s .syscall s.bdFlag s.ia).trans k
    refine ⟨_, (exec_syscall s code).trans (congrArg _ hraise), rfl, hslot, rfl, k.cycle, k.code, k.params, ?_⟩
    rw [firmwareHandler_firmwareCalls, hframe]

end Sys2Proof.Machine

/-! ## The hardware register file (60_exceptions.md R290 to R301)

A register of the file as its four bytes of the I/O buffer; the register map as ranges; then the acknowledge of I_STAT, the SPU
window, the raw accesses and the sound DMA. -/

namespace Sys2Proof.Machine

/-! ### Words of the I/O buffer (10_state.md R38) -/

theorem byteOfWord_ioWord (s : State) (off : Nat) {j : Nat} (hj : j < 4) :
    byteOfWord (s.ioWord off) j = s.mem.byte .io (off + j) :=
  byteOfWord_load s.mem .io off hj

/-- Two states whose I/O buffers hold the same four bytes hold the same word. -/
theorem ioWord_congr {s t : State} {off : Nat} (h : ∀ j, j < 4 → t.mem.byte .io (off + j) = s.mem.byte .io (off + j)) :
    t.ioWord off = s.ioWord off :=
  eq_of_byteOfWord_eq fun j hj => by rw [byteOfWord_ioWord t off hj, byteOfWord_ioWord s off hj, h j hj]

section IoWord

variable {s : State} (hwf : s.mem.wf = true) {off : Nat} (hoff : off + 4 ≤ 0x10000) (v : Word)

include hwf hoff

theorem byte_setIoWord (st : Store) (k : Nat) : (s.setIoWord off v).mem.byte st k =
    if st = .io ∧ off ≤ k ∧ k < off + 4 then byteOfWord v (k - off) else s.mem.byte st k :=
  Memory.byte_store hwf .io st off k .word v hoff

theorem ioWord_setIoWord_self : (s.setIoWord off v).ioWord off = v := by
  refine eq_of_byteOfWord_eq fun j hj => ?_
  rw [byteOfWord_ioWord _ off hj, byte_setIoWord hwf hoff, if_pos ⟨rfl, by omega⟩, Nat.add_sub_cancel_left]

theorem ioWord_setIoWord_of_disjoint {off' : Nat} (h : off' + 4 ≤ off ∨ off + 4 ≤ off') :
    (s.setIoWord off v).ioWord off' = s.ioWord off' := by
  refine ioWord_congr fun j hj => ?_
  rw [byte_setIoWord hwf hoff, if_neg (by omega)]

end IoWord

theorem byte_ram_congr {m n : Memory} (h : m.ram = n.ram) (off : Nat) : m.byte .ram off = n.byte .ram off :=
  congrArg (cellsRead · off) h

theorem setIoWord_wf {s : State} (hwf : s.mem.wf = true) (off : Nat) (v : Word) : (s.setIoWord off v).mem.wf = true :=
  Memory.setWord_wf hwf .io off v

/-- A register of the file lies in store H, so writing it leaves the list of RAM cells as it is. -/
theorem setIoWord_ram (s : State) (off : Nat) (v : Word) : (s.setIoWord off v).mem.ram = s.mem.ram := by
  have hbyte (m : Memory) (k : Nat) (b : Byte) : (m.setByte .io k b).ram = m.ram := by
    unfold Memory.setByte
    split <;> rfl
  rw [setIoWord_mem, Memory.setWord, hbyte, hbyte, hbyte, hbyte]

/-! ### The register map (R66, R290, R293) -/

theorem isHwFile_iff (a : Word) : isHwFile a = true ↔ 0x1F801000 ≤ a.toNat ∧ a.toNat < 0x1F810000 := by
  simp only [isHwFile, Bool.and_eq_true, beq_iff_eq, decide_eq_true_eq, pageOf_eq_ioPage]
  unfold fastLimit pageOffset
  omega

theorem memRead_hwFile {s : State} {a : Word} (h : isHwFile a = true) (w : Width) : s.memRead a w = s.hwRead a w := if_pos h

theorem memWrite_hwFile {s : State} {a : Word} (h : isHwFile a = true) (w : Width) (v : Word) :
    s.memWrite a w v = s.hwWrite a w v := if_pos h

/-- A counter register: one of the three at a multiple of four in one of the three windows (R292). -/
def inCounterWindow (off : Nat) : Prop := (off / 0x10 = 0x110 ∨ off / 0x10 = 0x111 ∨ off / 0x10 = 0x112) ∧ off % 0x10 ≤ 8

/-- The map outside the counter registers. -/
theorem hwReg_cases {off : Nat} (h : ¬(inCounterWindow off ∧ off % 4 = 0)) :
    (hwReg off = .iStat ∧ off = 0x1070) ∨ (hwReg off = .d4Chcr ∧ off = 0x10C8) ∨
      (hwReg off = .spu ∧ 0x1C00 ≤ off ∧ off < 0x1E00) ∨ (hwReg off = .raw ∧ ¬(0x1C00 ≤ off ∧ off < 0x1E00)) := by
  unfold inCounterWindow at h
  by_cases hstat : off = 0x1070
  · exact .inl ⟨by rw [hstat]; rfl, hstat⟩
  · by_cases hchcr : off = 0x10C8
    · exact .inr (.inl ⟨by rw [hchcr]; rfl, hchcr⟩)
    · have hrange : hwReg off = if spuLo ≤ off ∧ off < spuHi then .spu else .raw := by
        unfold hwReg
        split
        case h_12 => rfl
        all_goals omega
      by_cases hspu : 0x1C00 ≤ off ∧ off < 0x1E00
      · exact .inr (.inr (.inl ⟨hrange.trans (if_pos hspu), hspu⟩))
      · exact .inr (.inr (.inr ⟨hrange.trans (if_neg hspu), hspu⟩))

/-! ### The acknowledge of I_STAT (R294) -/

theorem memWrite_iStat (s : State) {w : Width} (hw : w ≠ .byte) (v : Word) :
    s.memWrite 0x1F801070 w v = s.istatAck (if w = .word then v else (v.setWidth 16).setWidth 32) := by
  cases w with
  | byte => exact absurd rfl hw
  | half | word => rfl

/-- The word written, bit by bit: a halfword is zero-extended. -/
theorem ackOperand_getLsbD {w : Width} (hw : w ≠ .byte) (v : Word) (k : Nat) :
    (if w = .word then v else (v.setWidth 16).setWidth 32 : Word).getLsbD k =
      (v.getLsbD k && (w == .word || decide (k < 16))) := by
  cases w with
  | byte => exact absurd rfl hw
  | half =>
    by_cases hk : k < 16
    · simp [hk, show k < 32 by omega]
    · simp [hk]
  | word => simp

theorem ackValue_getLsbD (p : AckPolicy) (istat imask v : Word) (k : Nat) :
    (ackValue p istat imask v).getLsbD k = (istat.getLsbD k && match p with
      | .docAndNot => !(v.getLsbD k && imask.getLsbD k)
      | .lineageAnd => v.getLsbD k && imask.getLsbD k
      | .hardwareAnd => v.getLsbD k) := by
  cases p with
  | docAndNot =>
    by_cases hk : k < 32
    · simp [ackValue, hk]
    · simp [ackValue, BitVec.getLsbD_of_ge _ k (Nat.le_of_not_lt hk)]
  | lineageAnd | hardwareAnd => simp [ackValue]

/-- Settles O46: the acknowledge is one write of I_STAT, with the bits the policy gives. -/
theorem interruptAcknowledge : Obligations.InterruptAcknowledge := by
  intro s w v hwf hw t written
  have ht : t = s.istatAck (if w = .word then v else (v.setWidth 16).setWidth 32) := memWrite_iStat s hw v
  rw [ht]
  refine ⟨rfl, fun st off hoff => ?bytes, fun k => ?bits⟩
  case bytes => exact (byte_setIoWord hwf (by decide) _ st off).trans (if_neg hoff)
  case bits =>
    have hself : (s.istatAck (if w = .word then v else (v.setWidth 16).setWidth 32)).ioWord 0x1070 = _ :=
      ioWord_setIoWord_self hwf (by decide) _
    rw [hself, ackValue_getLsbD, ackOperand_getLsbD hw]
    rfl

/-! ### The SPU window (R298, R300) -/

theorem hwReg_spu {off : Nat} (h : 0x1C00 ≤ off ∧ off < 0x1E00) : hwReg off = .spu := by
  rcases hwReg_cases (off := off) (by unfold inCounterWindow; omega) with ⟨-, he⟩ | ⟨-, he⟩ | ⟨hr, -⟩ | ⟨-, hout⟩
  · omega
  · omega
  · exact hr
  · exact absurd h hout

/-- Settles O49: in the window both directions are the call of the SPU. -/
theorem spuWindow : Obligations.SpuWindow := by
  intro s a v hlo hhi _
  have hfile : isHwFile a = true := (isHwFile_iff a).mpr (by omega)
  have hreg : hwReg (pageOffset a) = .spu := hwReg_spu (by unfold pageOffset; omega)
  have hread : s.memRead a .half = ((s.spuRead a).1.setWidth 32, (s.spuRead a).2) := by
    rw [memRead_hwFile hfile]
    simp only [State.hwRead, hreg]
  have hwrite : s.memWrite a .half v = s.spuWrite a (v.setWidth 16) := by
    rw [memWrite_hwFile hfile]
    simp only [State.hwWrite, hreg]
  rw [hread, hwrite]
  refine ⟨rfl, rfl, fun hspu => ?null, fun hspu => ?external⟩
  case null => simp only [State.spuRead, hspu]; rfl
  case external => simp only [State.spuRead, hspu]

/-! ### The raw accesses (R299) -/

/-- Settles O48: outside the registers singled out the map answers `raw`, or a register that the access does not reach. -/
theorem hardwarePassThrough : Obligations.HardwarePassThrough := by
  intro s a v hwf hfile o counterRegister
  obtain ⟨hlo, hhi⟩ := (isHwFile_iff a).mp hfile
  have ho : pageOffset a = o := by unfold pageOffset; omega
  have hin : o < 0x10000 := by omega
  rw [memRead_hwFile hfile, memRead_hwFile hfile, memRead_hwFile hfile, memWrite_hwFile hfile, memWrite_hwFile hfile,
    memWrite_hwFile hfile]
  simp only [State.hwRead, State.hwWrite, ho]
  refine ⟨⟨rfl, onlyBytes_store s hwf .io o .byte v hin⟩, fun hal hc hspu => ?half, fun hal hc => ?word⟩
  case half =>
    have hstore := onlyBytes_store s hwf .io o .half v (show o + 2 ≤ 0x10000 by omega)
    rcases hwReg_cases hc with ⟨hr, he⟩ | ⟨hr, -⟩ | ⟨-, hin⟩ | ⟨hr, -⟩
    · rw [hr]
      exact ⟨rfl, fun h => absurd he h⟩
    · rw [hr]
      exact ⟨rfl, fun _ => hstore⟩
    · exact absurd hin hspu
    · rw [hr]
      exact ⟨rfl, fun _ => hstore⟩
  case word =>
    have hstore := onlyBytes_store s hwf .io o .word v (show o + 4 ≤ 0x10000 by omega)
    rcases hwReg_cases fun h => hc h.1 with ⟨hr, he⟩ | ⟨hr, he⟩ | ⟨hr, -⟩ | ⟨hr, -⟩
    · rw [hr]
      exact ⟨rfl, fun h => absurd he h⟩
    · rw [hr]
      exact ⟨rfl, fun _ h => absurd he h⟩
    · rw [hr]
      exact ⟨rfl, fun _ _ => hstore⟩
    · rw [hr]
      exact ⟨rfl, fun _ _ => hstore⟩

/-! ### The sound DMA (R295, R296) -/

/-- The word-aligned offset in RAM (D50). -/
theorem dmaBase_eq (madr : Word) : dmaBase madr = madr.toNat % 0x200000 / 4 * 4 := by
  have hmask : madr &&& 0x001FFFFC = alignDown (madr &&& 0x001FFFFF) := by
    rw [alignDown, BitVec.and_assoc]
    rfl
  have hmod : (madr &&& 0x001FFFFF).toNat = madr.toNat % 0x200000 :=
    (BitVec.toNat_and _ _).trans (Nat.and_two_pow_sub_one_eq_mod madr.toNat 21)
  rw [dmaBase, hmask, alignDown_toNat, hmod]
  omega

/-- Blocks times words in a block (D32). -/
theorem dmaWords_eq (bcr : Word) : dmaWords bcr = bcr.toNat / 0x10000 * (bcr.toNat % 0x10000) := by
  have hhigh : bcr.toNat / 2 ^ 16 % 2 ^ 16 = bcr.toNat / 0x10000 := by have := bcr.isLt; omega
  rw [dmaWords, toNat_extractLsb'_eq_div_mod, toNat_extractLsb'_eq_div_mod, hhigh, Nat.pow_zero, Nat.div_one]
  rfl

section StoreRam

variable {m : Memory} (hwf : m.wf = true) (base : Nat) (f : Nat → Byte)

include hwf

theorem Memory.byte_storeRam_succ (n : Nat) (st : Store) (off : Nat) :
    (m.storeRam base f (n + 1)).byte st off =
      if st = .ram ∧ off = (base + n) % 0x200000 then f n else (m.storeRam base f n).byte st off := by
  have hin : (base + n) % 0x200000 < Store.ram.size := Nat.mod_lt _ (by decide)
  rw [Memory.storeRam, Memory.byte_setByte (Memory.storeRam_wf hwf base f n)]
  simp only [hin, and_true]

/-- What the block does not meet keeps its byte. -/
theorem Memory.byte_storeRam_of_not_met (n : Nat) (st : Store) (off : Nat)
    (h : st = .ram → ∀ k, k < n → off ≠ (base + k) % 0x200000) : (m.storeRam base f n).byte st off = m.byte st off := by
  induction n with
  | zero => rfl
  | succ n ih =>
    rw [Memory.byte_storeRam_succ hwf, if_neg fun hmet => h hmet.1 n (Nat.lt_succ_self n) hmet.2]
    exact ih fun hst k hk => h hst k (Nat.lt_succ_of_lt hk)

/-- Byte `k` of the block stands where it was put, unless a later byte went to the same place (log 23). -/
theorem Memory.byte_storeRam_of_last (n k : Nat) (hk : k < n)
    (hlast : ∀ k', k < k' → k' < n → (base + k') % 0x200000 ≠ (base + k) % 0x200000) :
    (m.storeRam base f n).byte .ram ((base + k) % 0x200000) = f k := by
  induction n with
  | zero => exact absurd hk (Nat.not_lt_zero k)
  | succ n ih =>
    rw [Memory.byte_storeRam_succ hwf]
    by_cases hkn : k = n
    · rw [if_pos ⟨rfl, by rw [hkn]⟩, hkn]
    · have hlt : k < n := by omega
      rw [if_neg fun hmet => hlast n hlt (Nat.lt_succ_self n) hmet.2.symm]
      exact ih hlt fun k' h h' => hlast k' h (Nat.lt_succ_of_lt h')

end StoreRam

/-- `t` differs from `s` at most in memory and in the calls the SPU has received. -/
def DmaOnly (s t : State) : Prop := t = { s with mem := t.mem, spuCalls := t.spuCalls }

theorem DmaOnly.trans {s t u : State} (h : DmaOnly s t) (h' : DmaOnly t u) : DmaOnly s u := by
  unfold DmaOnly at *
  rw [h', h]

theorem dmaOnly_dmaTransfer (s : State) (madr bcr chcr : Word) : DmaOnly s (s.dmaTransfer madr bcr chcr) := by
  unfold State.dmaTransfer
  dsimp only
  split <;> rfl

theorem dmaTransfer_wf {s : State} (hwf : s.mem.wf = true) (madr bcr chcr : Word) :
    (s.dmaTransfer madr bcr chcr).mem.wf = true := by
  unfold State.dmaTransfer
  dsimp only
  split
  · exact hwf
  · exact Memory.storeRam_wf hwf _ _ _

/-- A transfer writes no byte outside RAM (R296). -/
theorem dmaTransfer_byte {s : State} (hwf : s.mem.wf = true) (madr bcr chcr : Word) {st : Store} (h : st ≠ .ram) (off : Nat) :
    (s.dmaTransfer madr bcr chcr).mem.byte st off = s.mem.byte st off := by
  unfold State.dmaTransfer
  dsimp only
  split
  · rfl
  · exact Memory.byte_storeRam_of_not_met hwf _ _ _ st off fun e => absurd e h

theorem dmaTransfer_ioWord {s : State} (hwf : s.mem.wf = true) (madr bcr chcr : Word) (off : Nat) :
    (s.dmaTransfer madr bcr chcr).ioWord off = s.ioWord off :=
  ioWord_congr fun j _ => dmaTransfer_byte hwf madr bcr chcr (by decide) (off + j)

/-- RAM to SPU: the call carries the RAM contents, and memory is not written. -/
theorem dmaTransfer_write (s : State) (madr bcr : Word) {chcr : Word} (h : chcr.getLsbD 0 = true) :
    s.dmaTransfer madr bcr chcr = s.logSpu (.writeDmaBlock (dmaBase madr) (dmaWords bcr) s.mem.ram) :=
  if_pos h

/-- SPU to RAM: the bytes that the SPU supplies to the call are stored. -/
theorem dmaTransfer_read (s : State) (madr bcr : Word) {chcr : Word} (h : chcr.getLsbD 0 = false) :
    s.dmaTransfer madr bcr chcr = (s.logSpu (.readDmaBlock (dmaBase madr) (dmaWords bcr))).setMem
      (s.mem.storeRam (dmaBase madr) (s.logSpu (.readDmaBlock (dmaBase madr) (dmaWords bcr))).spuDmaByte
        (4 * dmaWords bcr)) :=
  if_neg (Bool.eq_false_iff.mp h)

/-- The completion as writes of three registers, on the values they had before (R295). -/
theorem dmaComplete_eq {s : State} (hwf : s.mem.wf = true) : s.dmaComplete =
    if (s.ioWord dicrOff).getLsbD 20 then
      ((s.setIoWord d4ChcrOff (s.ioWord d4ChcrOff &&& 0xFEFFFFFF)).setIoWord dicrOff (s.ioWord dicrOff ||| 0x10000000)).setIoWord
        iStatOff (s.ioWord iStatOff ||| 0x00000008)
    else s.setIoWord d4ChcrOff (s.ioWord d4ChcrOff &&& 0xFEFFFFFF) := by
  have hwf' := setIoWord_wf hwf d4ChcrOff (s.ioWord d4ChcrOff &&& 0xFEFFFFFF)
  unfold State.dmaComplete State.raiseIStat
  dsimp only
  rw [ioWord_setIoWord_of_disjoint hwf' (by decide) _ (by decide), ioWord_setIoWord_of_disjoint hwf (by decide) _ (by decide),
    ioWord_setIoWord_of_disjoint hwf (by decide) _ (by decide)]

theorem dmaOnly_setIoWord (s : State) (off : Nat) (v : Word) : DmaOnly s (s.setIoWord off v) := rfl

theorem dmaOnly_dmaComplete (s : State) : DmaOnly s s.dmaComplete := by
  unfold State.dmaComplete State.raiseIStat
  dsimp only
  split
  · exact ((dmaOnly_setIoWord _ _ _).trans (dmaOnly_setIoWord _ _ _)).trans (dmaOnly_setIoWord _ _ _)
  · exact dmaOnly_setIoWord _ _ _

theorem dmaComplete_ram (s : State) : s.dmaComplete.mem.ram = s.mem.ram := by
  unfold State.dmaComplete State.raiseIStat
  dsimp only
  split
  · rw [setIoWord_ram, setIoWord_ram, setIoWord_ram]
  · exact setIoWord_ram _ _ _

theorem dmaComplete_spuCalls (s : State) : s.dmaComplete.spuCalls = s.spuCalls := by
  unfold State.dmaComplete State.raiseIStat
  dsimp only
  split
  · rw [setIoWord_spuCalls, setIoWord_spuCalls, setIoWord_spuCalls]
  · exact setIoWord_spuCalls _ _ _

section DmaComplete

variable {s : State} (hwf : s.mem.wf = true)

include hwf

theorem dmaComplete_byte {st : Store} {off : Nat} (hchcr : ¬(st = .io ∧ 0x10C8 ≤ off ∧ off < 0x10CC))
    (hdicr : ¬(st = .io ∧ 0x10F4 ≤ off ∧ off < 0x10F8)) (hstat : ¬(st = .io ∧ 0x1070 ≤ off ∧ off < 0x1074)) :
    s.dmaComplete.mem.byte st off = s.mem.byte st off := by
  have hwf' := setIoWord_wf hwf d4ChcrOff (s.ioWord d4ChcrOff &&& 0xFEFFFFFF)
  have h₁ := (byte_setIoWord hwf (by decide) (s.ioWord d4ChcrOff &&& 0xFEFFFFFF) st off).trans (if_neg hchcr)
  rw [dmaComplete_eq hwf]
  split
  · rw [byte_setIoWord (setIoWord_wf hwf' _ _) (by decide), byte_setIoWord hwf' (by decide)]
    exact (if_neg hstat).trans ((if_neg hdicr).trans h₁)
  · exact h₁

theorem dmaComplete_d4Chcr : s.dmaComplete.ioWord d4ChcrOff = s.ioWord d4ChcrOff &&& 0xFEFFFFFF := by
  have hwf' := setIoWord_wf hwf d4ChcrOff (s.ioWord d4ChcrOff &&& 0xFEFFFFFF)
  rw [dmaComplete_eq hwf]
  split
  · rw [ioWord_setIoWord_of_disjoint (setIoWord_wf hwf' _ _) (by decide) _ (by decide),
      ioWord_setIoWord_of_disjoint hwf' (by decide) _ (by decide), ioWord_setIoWord_self hwf (by decide)]
  · exact ioWord_setIoWord_self hwf (by decide) _

theorem dmaComplete_dicr : s.dmaComplete.ioWord dicrOff =
    if (s.ioWord dicrOff).getLsbD 20 then s.ioWord dicrOff ||| 0x10000000 else s.ioWord dicrOff := by
  have hwf' := setIoWord_wf hwf d4ChcrOff (s.ioWord d4ChcrOff &&& 0xFEFFFFFF)
  rw [dmaComplete_eq hwf]
  split
  · rw [ioWord_setIoWord_of_disjoint (setIoWord_wf hwf' _ _) (by decide) _ (by decide), ioWord_setIoWord_self hwf' (by decide)]
  · exact ioWord_setIoWord_of_disjoint hwf (by decide) _ (by decide)

theorem dmaComplete_iStat : s.dmaComplete.ioWord iStatOff =
    if (s.ioWord dicrOff).getLsbD 20 then s.ioWord iStatOff ||| 0x00000008 else s.ioWord iStatOff := by
  have hwf' := setIoWord_wf hwf d4ChcrOff (s.ioWord d4ChcrOff &&& 0xFEFFFFFF)
  rw [dmaComplete_eq hwf]
  split
  · exact ioWord_setIoWord_self (setIoWord_wf hwf' _ _) (by decide) _
  · exact ioWord_setIoWord_of_disjoint hwf (by decide) _ (by decide)

end DmaComplete

theorem dmaOnly_dmaStartTest (s : State) : DmaOnly s s.dmaStartTest := by
  unfold State.dmaStartTest
  split
  · exact (dmaOnly_dmaTransfer _ _ _ _).trans (dmaOnly_dmaComplete _)
  · rfl

theorem dmaStartTest_byte {s : State} (hwf : s.mem.wf = true) {st : Store} {off : Nat} (hram : st ≠ .ram)
    (hchcr : ¬(st = .io ∧ 0x10C8 ≤ off ∧ off < 0x10CC)) (hdicr : ¬(st = .io ∧ 0x10F4 ≤ off ∧ off < 0x10F8))
    (hstat : ¬(st = .io ∧ 0x1070 ≤ off ∧ off < 0x1074)) : s.dmaStartTest.mem.byte st off = s.mem.byte st off := by
  unfold State.dmaStartTest
  split
  · rw [dmaComplete_byte (dmaTransfer_wf hwf _ _ _) hchcr hdicr hstat, dmaTransfer_byte hwf _ _ _ hram]
  · rfl

/-- Writing the start of D4_CHCR is writing the word, and then the start test (R295). -/
theorem memWrite_d4Chcr (s : State) (v : Word) : s.memWrite 0x1F8010C8 .word v = (s.setIoWord d4ChcrOff v).dmaStartTest := rfl

/-- The start test after a write of D4_CHCR, on the values before it. -/
theorem memWrite_d4Chcr_eq {s : State} (hwf : s.mem.wf = true) (v : Word) : s.memWrite 0x1F8010C8 .word v =
    if v.getLsbD 24 && (s.ioWord dpcrOff).getLsbD 19 then
      ((s.setIoWord d4ChcrOff v).dmaTransfer (s.ioWord d4MadrOff) (s.ioWord d4BcrOff) v).dmaComplete
    else s.setIoWord d4ChcrOff v := by
  rw [memWrite_d4Chcr, State.dmaStartTest, ioWord_setIoWord_self hwf (by decide),
    ioWord_setIoWord_of_disjoint hwf (by decide) _ (by decide), ioWord_setIoWord_of_disjoint hwf (by decide) _ (by decide),
    ioWord_setIoWord_of_disjoint hwf (by decide) _ (by decide)]

/-- Setting one bit where `c` holds. -/
theorem getLsbD_setBit (x : Word) {b : Word} {n : Nat} (hn : n < 32) (hb : b = BitVec.twoPow 32 n) (c : Bool) (k : Nat) :
    (if c then x ||| b else x).getLsbD k = (x.getLsbD k || (decide (k = n) && c)) := by
  cases c with
  | false => simp
  | true => simp [hb, BitVec.getLsbD_twoPow, hn, eq_comm]

/-- The start bit clears, and no other. -/
theorem getLsbD_clearStart (x : Word) (k : Nat) : (x &&& 0xFEFFFFFF).getLsbD k = (x.getLsbD k && decide (k ≠ 24)) := by
  have hmask : (0xFEFFFFFF : Word) = ~~~BitVec.twoPow 32 24 := by decide
  by_cases hk : k < 32
  · simp [hmask, hk]
  · simp [BitVec.getLsbD_of_ge _ k (Nat.le_of_not_lt hk)]

/-- Settles O47: the start test, the transfer in each direction, and the completion. -/
theorem soundDma : Obligations.SoundDma := by
  intro s v hwf t base words starts completes
  have ht : t = _ := memWrite_d4Chcr_eq hwf v
  have hwf' : (s.setIoWord d4ChcrOff v).mem.wf = true := setIoWord_wf hwf _ _
  have hstarts : starts ↔ (v.getLsbD 24 && (s.ioWord dpcrOff).getLsbD 19) = true := (Bool.and_eq_true _ _).symm ▸ Iff.rfl
  have hbase : dmaBase (s.ioWord d4MadrOff) = base := dmaBase_eq _
  have hwords : dmaWords (s.ioWord d4BcrOff) = words := dmaWords_eq _
  refine ⟨?frame, fun st off hram hchcr hdicr hstat => ?bytes, fun hno => ?stored, fun hyes => ?completed, fun hyes hdir => ?toSpu,
    fun hyes hdir => ?toRam⟩
  case frame => exact DmaOnly.trans (t := s.setIoWord d4ChcrOff v) rfl (dmaOnly_dmaStartTest _)
  case bytes =>
    refine (dmaStartTest_byte hwf' hram hchcr hdicr hstat).trans ?_
    exact (byte_setIoWord hwf (by decide) v st off).trans (if_neg hchcr)
  case stored =>
    rw [ht, if_neg (mt hstarts.mpr hno)]
    exact ⟨ioWord_setIoWord_self hwf (by decide) v, ioWord_setIoWord_of_disjoint hwf (by decide) v (by decide),
      ioWord_setIoWord_of_disjoint hwf (by decide) v (by decide), setIoWord_ram _ _ _, rfl⟩
  case completed =>
    have hcompletes : decide completes = (s.ioWord dicrOff).getLsbD 20 := Bool.decide_coe _
    rw [ht, if_pos (hstarts.mp hyes), hcompletes]
    have hio (off : Nat) := dmaTransfer_ioWord hwf' (s.ioWord d4MadrOff) (s.ioWord d4BcrOff) v off
    have hwfx := dmaTransfer_wf hwf' (s.ioWord d4MadrOff) (s.ioWord d4BcrOff) v
    generalize (s.setIoWord d4ChcrOff v).dmaTransfer (s.ioWord d4MadrOff) (s.ioWord d4BcrOff) v = x at hio hwfx
    have hchcr : x.ioWord d4ChcrOff = v := (hio d4ChcrOff).trans (ioWord_setIoWord_self hwf (by decide) v)
    have hdicr : x.ioWord dicrOff = s.ioWord dicrOff :=
      (hio dicrOff).trans (ioWord_setIoWord_of_disjoint hwf (by decide) v (by decide))
    have hstat : x.ioWord iStatOff = s.ioWord iStatOff :=
      (hio iStatOff).trans (ioWord_setIoWord_of_disjoint hwf (by decide) v (by decide))
    refine ⟨fun k => ?_, fun k => ?_, fun k => ?_⟩
    · change (x.dmaComplete.ioWord d4ChcrOff).getLsbD k = _
      rw [dmaComplete_d4Chcr hwfx, hchcr, getLsbD_clearStart]
    · change (x.dmaComplete.ioWord dicrOff).getLsbD k = _
      rw [dmaComplete_dicr hwfx, hdicr]
      exact getLsbD_setBit _ (n := 28) (by decide) rfl _ k
    · change (x.dmaComplete.ioWord iStatOff).getLsbD k = _
      rw [dmaComplete_iStat hwfx, hdicr, hstat]
      exact getLsbD_setBit _ (n := 3) (by decide) rfl _ k
  case toSpu =>
    rw [ht, if_pos (hstarts.mp hyes), dmaTransfer_write _ _ _ hdir, hbase, hwords, dmaComplete_spuCalls, dmaComplete_ram]
    exact ⟨by rw [setIoWord_ram]; rfl, setIoWord_ram _ _ _⟩
  case toRam =>
    have hram (off : Nat) : t.mem.byte .ram off = ((s.setIoWord d4ChcrOff v).mem.storeRam base
        ((s.setIoWord d4ChcrOff v).logSpu (.readDmaBlock base words)).spuDmaByte (4 * words)).byte .ram off := by
      rw [ht, if_pos (hstarts.mp hyes), dmaTransfer_read _ _ _ hdir, hbase, hwords]
      exact byte_ram_congr (dmaComplete_ram _) off
    have hcalls : t.spuCalls = .readDmaBlock base words :: s.spuCalls := by
      rw [ht, if_pos (hstarts.mp hyes), dmaTransfer_read _ _ _ hdir, hbase, hwords]
      exact dmaComplete_spuCalls _
    refine ⟨hcalls, fun k hk hlast => ?_, fun off hoff => ?_⟩
    · rw [hram, hcalls]
      exact Memory.byte_storeRam_of_last hwf' base _ (4 * words) k hk hlast
    · rw [hram]
      exact (Memory.byte_storeRam_of_not_met hwf' base _ (4 * words) .ram off fun _ => hoff).trans
        (byte_ram_congr (setIoWord_ram s d4ChcrOff v) off)

end Sys2Proof.Machine

/-! ## The counters (60_exceptions.md R310 to R322)

The deadline as an exact product; the nine registers; then firing one counter, and the four of an evaluation in their order. -/

namespace Sys2Proof.Machine

/-! ### The deadline (R313) -/

/-- The low sixteen bits, as a remainder. -/
theorem toNat_and_low (x : Word) : (x &&& 0xFFFF).toNat = x.toNat % 0x10000 :=
  (BitVec.toNat_and _ _).trans (Nat.and_two_pow_sub_one_eq_mod x.toNat 16)

theorem and_0x30_eq_zero_iff (m : Word) : m &&& 0x30 = 0 ↔ ¬(m.getLsbD 4 = true ∨ m.getLsbD 5 = true) := by
  constructor
  · have bit (k : Nat) (hk : (0x30 : Word).getLsbD k = true) (h : m &&& 0x30 = 0) : ¬m.getLsbD k = true := fun hm => by
      have hbit : (m &&& 0x30).getLsbD k = false := h ▸ BitVec.getLsbD_zero
      rw [BitVec.getLsbD_and, hm, hk] at hbit
      cases hbit
    rintro h (h4 | h5)
    · exact bit 4 rfl h h4
    · exact bit 5 rfl h h5
  · intro h
    obtain ⟨h4, h5⟩ := not_or.mp h
    apply BitVec.eq_of_getLsbD_eq
    intro k hk
    rw [BitVec.getLsbD_and]
    interval_cases k <;> simp_all

theorem raisesEvents_iff (i : Fin 4) (m : Word) : raisesEvents i m = true ↔
    (m.getLsbD 4 = true ∨ m.getLsbD 5 = true) ∧ ¬(i = 2 ∧ m.getLsbD 0 = true) := by
  simp only [raisesEvents, Bool.and_eq_true, bne_iff_ne, Ne, and_0x30_eq_zero_iff, not_not, Bool.not_eq_true', ← Bool.not_eq_true,
    beq_iff_eq]

/-- The ticks to the next event, on 16-bit values (R313). -/
theorem ticksToEvent_toNat {c : Counter} (hcount : c.count.toNat < 0x10000) (htarget : c.target.toNat < 0x10000) :
    (ticksToEvent c).toNat = if c.mode.getLsbD 4 then (c.target.toNat + 0x10000 - c.count.toNat) % 0x10000
      else 0xFFFF - c.count.toNat := by
  unfold ticksToEvent
  split
  · rw [toNat_and_low, BitVec.toNat_sub]
    omega
  · rw [toNat_and_low, BitVec.toNat_sub, show (0xFFFF : Word).toNat = 0xFFFF from rfl]
    omega

/-- The two source bits of a mode, as a number. -/
theorem and_0x300_toNat (m : Word) : (m &&& 0x300).toNat = m.toNat / 0x100 % 4 * 0x100 := by
  have hshift : m &&& (0x300 : Word) = ((m >>> 8) &&& (3 : Word)) <<< 8 := by
    apply BitVec.eq_of_getLsbD_eq
    intro k hk
    rw [BitVec.getLsbD_and, BitVec.getLsbD_shiftLeft, BitVec.getLsbD_and, BitVec.getLsbD_ushiftRight]
    interval_cases k <;> simp
  have hlow : ((m >>> 8) &&& (3 : Word)).toNat = m.toNat / 0x100 % 4 := by
    rw [BitVec.toNat_and, BitVec.toNat_ushiftRight, Nat.shiftRight_eq_div_pow]
    exact Nat.and_two_pow_sub_one_eq_mod _ 2
  rw [hshift, BitVec.toNat_shiftLeft, hlow, Nat.shiftLeft_eq]
  omega

theorem and_0x300_eq_iff (m : Word) {n : Nat} (hn : n < 4) :
    m &&& 0x300 = BitVec.ofNat 32 (n * 0x100) ↔ m.toNat / 0x100 % 4 = n := by
  rw [← BitVec.toNat_inj, and_0x300_toNat, BitVec.toNat_ofNat]
  omega

/-- The rates of R312 for the three programmable counters. -/
theorem rateFor_eq {i : Fin 4} (hi : i ≠ 3) (m : Word) : rateFor i m =
    if i = 0 ∧ m.toNat / 0x100 % 4 = 1 then 5 else if i = 1 ∧ m.toNat / 0x100 % 4 = 1 then 2154
      else if i = 2 ∧ m.toNat / 0x100 % 4 = 2 then 8 else 1 := by
  have h1 : m &&& 0x300 = 0x100 ↔ m.toNat / 0x100 % 4 = 1 := and_0x300_eq_iff m (n := 1) (by omega)
  have h2 : m &&& 0x300 = 0x200 ↔ m.toNat / 0x100 % 4 = 2 := and_0x300_eq_iff m (n := 2) (by omega)
  simp only [rateFor, h1, h2]
  match i, hi with
  | 0, _ => simp [rate0Alt]
  | 1, _ => simp [rate1Alt]
  | 2, _ => simp [rate2Alt]
  | 3, h => exact absurd rfl h

theorem rateFor_le {i : Fin 4} (hi : i ≠ 3) (m : Word) : (rateFor i m).toNat ≤ 2154 := by
  rw [rateFor_eq hi]
  split_ifs <;> decide

/-- The product of R313 fits 32 bits. -/
theorem ticks_mul_rate_lt {i : Fin 4} {c : Counter} (h : counterOk i c) :
    (ticksToEvent c).toNat * c.rate.toNat < 2 ^ 32 := by
  obtain ⟨hcount, htarget, hrate, -, hframe⟩ := h
  by_cases hi : i = 3
  · rw [hframe hi]
    change (ticksToEvent Counter.frameAtReset).toNat * Counter.frameAtReset.rate.toNat < 2 ^ 32
    decide
  · have hticks : (ticksToEvent c).toNat ≤ 0xFFFF := by
      rw [ticksToEvent_toNat hcount htarget]
      split <;> omega
    calc (ticksToEvent c).toNat * c.rate.toNat ≤ 0xFFFF * 2154 :=
          Nat.mul_le_mul hticks (hrate ▸ rateFor_le hi c.mode)
      _ < 2 ^ 32 := by decide

/-- Settles O51: armed exactly by the mode, and then for the exact product. -/
theorem counterDeadline : Obligations.CounterDeadline := by
  intro i now c hok u armed
  have harmed : raisesEvents i c.mode = true ↔ armed := raisesEvents_iff i c.mode
  refine ⟨rfl, fun hno => if_neg (mt harmed.mp hno), fun hyes => ⟨_, if_pos (harmed.mpr hyes), ?_⟩⟩
  rw [BitVec.toNat_mul, Nat.mod_eq_of_lt (ticks_mul_rate_lt hok), ticksToEvent_toNat hok.1 hok.2.1]

/-! ### The nine registers (R292, R316 to R319) -/

/-- The halfword forms zero-extend. -/
theorem setWidth_16_32 (x : Word) : (x.setWidth 16).setWidth 32 = BitVec.ofNat 32 (x.toNat % 0x10000) := by
  apply BitVec.eq_of_toNat_eq
  rw [BitVec.toNat_setWidth, BitVec.toNat_setWidth, BitVec.toNat_ofNat]

theorem counterCount_eq (now : Word) (c : Counter) : counterCount now c =
    BitVec.ofNat 32 ((c.count.toNat + (now - c.sCycle).toNat / c.rate.toNat) % 0x10000) := by
  apply BitVec.eq_of_toNat_eq
  rw [counterCount, toNat_and_low, BitVec.toNat_add, BitVec.toNat_udiv, BitVec.toNat_ofNat]
  omega

section Registers

variable {i : Fin 4} {a : Word} (ha : a.toNat = 0x1F801100 + 0x10 * i.val)

include ha in
/-- The address of a register of the window is one of the register file. -/
theorem window_address {n : Nat} (hn : n ≤ 8) : isHwFile (a + BitVec.ofNat 32 n) = true ∧
    pageOffset (a + BitVec.ofNat 32 n) = 0x1100 + 0x10 * i.val + n := by
  have hlt := i.isLt
  have hadd : (a + BitVec.ofNat 32 n).toNat = 0x1F801100 + 0x10 * i.val + n := by
    rw [BitVec.toNat_add, BitVec.toNat_ofNat, ha]
    omega
  rw [isHwFile_iff, pageOffset, hadd]
  omega

variable (hi : i ≠ 3)

include hi

/-- The three windows of the map (R292). -/
theorem hwReg_window : hwReg (0x1100 + 0x10 * i.val) = .count i ∧ hwReg (0x1100 + 0x10 * i.val + 4) = .mode i ∧
    hwReg (0x1100 + 0x10 * i.val + 8) = .target i := by
  revert i
  decide

variable (s : State) {w : Width} (hw : w ≠ .byte) (v : Word)

include ha hw

/-- The accesses to the count: it is the first register of its window. -/
theorem memAccess_count : s.memRead a w = (s.readCount i, s) ∧ s.memWrite a w v = s.writeCount i (v.setWidth 16) := by
  obtain ⟨hfile, hoff⟩ := window_address ha (n := 0) (by omega)
  rw [BitVec.add_zero] at hfile hoff
  rw [memRead_hwFile hfile, memWrite_hwFile hfile]
  cases w with
  | byte => exact absurd rfl hw
  | half | word => simp only [State.hwRead, State.hwWrite, hoff, Nat.add_zero, (hwReg_window hi).1, and_self]

theorem memAccess_mode : s.memRead (a + 4) w = (if w = .word then s.ctr[i].mode else (s.ctr[i].mode.setWidth 16).setWidth 32, s) ∧
    s.memWrite (a + 4) w v = s.writeMode i (if w = .word then v else (v.setWidth 16).setWidth 32) := by
  obtain ⟨hfile, hoff⟩ : isHwFile (a + 4) = true ∧ pageOffset (a + 4) = _ := window_address ha (n := 4) (by omega)
  rw [memRead_hwFile hfile, memWrite_hwFile hfile]
  cases w with
  | byte => exact absurd rfl hw
  | half | word =>
    simp only [State.hwRead, State.hwWrite, hoff, (hwReg_window hi).2.1]
    exact ⟨rfl, rfl⟩

theorem memAccess_target :
    s.memRead (a + 8) w = (if w = .word then s.ctr[i].target else (s.ctr[i].target.setWidth 16).setWidth 32, s) ∧
    s.memWrite (a + 8) w v = s.writeTarget i (v.setWidth 16) := by
  obtain ⟨hfile, hoff⟩ : isHwFile (a + 8) = true ∧ pageOffset (a + 8) = _ := window_address ha (n := 8) (by omega)
  rw [memRead_hwFile hfile, memWrite_hwFile hfile]
  cases w with
  | byte => exact absurd rfl hw
  | half | word =>
    simp only [State.hwRead, State.hwWrite, hoff, (hwReg_window hi).2.2, and_true]
    rfl

end Registers

/-- Settles O50: each register by its address in the map. -/
theorem counterRegisters : Obligations.CounterRegisters := by
  intro s i a v w hi hw ha c low
  obtain ⟨hreadCount, hwriteCount⟩ := memAccess_count ha hi s hw v
  obtain ⟨hreadMode, hwriteMode⟩ := memAccess_mode ha hi s hw v
  obtain ⟨hreadTarget, hwriteTarget⟩ := memAccess_target ha hi s hw v
  have hlow (x : Word) : (x.setWidth 16).setWidth 32 = low x := setWidth_16_32 x
  rw [hreadCount, hreadMode, hreadTarget, hwriteCount, hwriteMode, hwriteTarget]
  simp only [State.writeCount, State.writeMode, State.writeTarget, hlow, rateFor_eq hi]
  exact ⟨by rw [State.readCount, counterCount_eq], rfl, rfl, rfl, rfl, rfl⟩

/-! ### Firing (R314, R320, R321) -/

/-- The number of a counter's bit of I_STAT (R315). -/
def counterBitIndex (i : Fin 4) : Nat := if i = 0 then 4 else if i = 1 then 5 else if i = 2 then 6 else 0

theorem counterBitIndex_lt (i : Fin 4) : counterBitIndex i < 32 := by revert i; decide

theorem counterBit_eq_twoPow (i : Fin 4) : counterBit i = BitVec.twoPow 32 (counterBitIndex i) := by revert i; decide

/-- The frame timer's record always counts from 0 and repeats, so restarting it (R321) is firing it (R314). -/
theorem counterFired_three {c : Counter} (h : counterOk 3 c) (now : Word) : counterFired 3 now c = counterUpd 3 now c := by
  obtain ⟨-, -, -, -, hframe⟩ := h
  have hrepeats : c.mode.getLsbD 6 = true := by rw [hframe rfl]; exact (by decide : (0x58 : Word).getLsbD 6 = true)
  have hcount : { c with count := 0 } = c := by rw [hframe rfl]; rfl
  rw [counterFired, if_pos hrepeats, hcount]

theorem fireIfDue_eq {s : State} (h : BusOk s) (i : Fin 4) : s.fireIfDue i =
    if counterDue s.cycle s.ctr[i] then (s.setCtr i (counterFired i s.cycle s.ctr[i])).raiseIStat (counterBit i) else s := by
  obtain ⟨-, -, -, hbit, -⟩ := h.counters i
  unfold State.fireIfDue
  split
  · split
    · next hi =>
      subst hi
      rw [counterFired_three (h.counters 3)]
      rfl
    · rw [State.fire, hbit]
  · rfl

/-- `t` differs from `s` at most in memory and in the counters. -/
def CountersOnly (s t : State) : Prop := t = { s with mem := t.mem, ctr := t.ctr }

theorem CountersOnly.trans {s t u : State} (h : CountersOnly s t) (h' : CountersOnly t u) : CountersOnly s u := by
  unfold CountersOnly at *
  rw [h', h]

theorem fireIfDue_countersOnly (s : State) (i : Fin 4) : CountersOnly s (s.fireIfDue i) := by
  unfold State.fireIfDue
  split
  · split <;> rfl
  · rfl

section Firing

variable {s : State} (h : BusOk s)

include h

theorem fireIfDue_ctr_self (i : Fin 4) : (s.fireIfDue i).ctr[i] =
    if counterDue s.cycle s.ctr[i] then counterFired i s.cycle s.ctr[i] else s.ctr[i] := by
  rw [fireIfDue_eq h]
  split
  · exact Vector.getElem_set_self _
  · rfl

theorem fireIfDue_ctr_of_ne {i j : Fin 4} (hij : i ≠ j) : (s.fireIfDue i).ctr[j] = s.ctr[j] := by
  rw [fireIfDue_eq h]
  split
  · exact Vector.getElem_set_ne i.isLt j.isLt fun e => hij (Fin.ext e)
  · rfl

/-- Firing writes no byte but those of I_STAT. -/
theorem fireIfDue_byte (i : Fin 4) (st : Store) (off : Nat) (hoff : ¬(st = .io ∧ 0x1070 ≤ off ∧ off < 0x1074)) :
    (s.fireIfDue i).mem.byte st off = s.mem.byte st off := by
  rw [fireIfDue_eq h]
  split
  · exact (byte_setIoWord (s := s.setCtr i _) (off := iStatOff) h.memWf (by decide) _ st off).trans (if_neg hoff)
  · rfl

theorem fireIfDue_iStat (i : Fin 4) (k : Nat) : ((s.fireIfDue i).ioWord 0x1070).getLsbD k =
    ((s.ioWord 0x1070).getLsbD k || (decide (k = counterBitIndex i) && counterDue s.cycle s.ctr[i])) := by
  rw [← getLsbD_setBit _ (counterBitIndex_lt i) (counterBit_eq_twoPow i), fireIfDue_eq h]
  split
  · exact congrArg (·.getLsbD k) (ioWord_setIoWord_self (s := s.setCtr i _) (off := iStatOff) h.memWf (by decide) _)
  · rfl

/-- Firing one counter leaves the deadline of another as it is. -/
theorem fireIfDue_due_of_ne {i j : Fin 4} (hij : i ≠ j) :
    counterDue (s.fireIfDue i).cycle (s.fireIfDue i).ctr[j] = counterDue s.cycle s.ctr[j] := by
  rw [fireIfDue_ctr_of_ne h hij, (fireIfDue_only s i).cycle]

end Firing

/-- An evaluation's counters, in the order of R320. -/
theorem catchUp_eq_foldl (s : State) : s.catchUp = [3, 0, 1, 2].foldl State.fireIfDue s := rfl

theorem any_congr_of_mem {l : List (Fin 4)} {p q : Fin 4 → Bool} (h : ∀ j ∈ l, p j = q j) : l.any p = l.any q := by
  rw [Bool.eq_iff_iff, List.any_eq_true, List.any_eq_true]
  exact exists_congr fun j => and_congr_right fun hj => by rw [h j hj]

section FiringInTurn

variable (l : List (Fin 4)) {s : State} (h : BusOk s)

theorem foldl_fireIfDue_countersOnly (s : State) : CountersOnly s (l.foldl State.fireIfDue s) := by
  induction l generalizing s with
  | nil => rfl
  | cons i l ih => exact (fireIfDue_countersOnly s i).trans (ih _)

include h

theorem foldl_fireIfDue_byte (st : Store) (off : Nat) (hoff : ¬(st = .io ∧ 0x1070 ≤ off ∧ off < 0x1074)) :
    (l.foldl State.fireIfDue s).mem.byte st off = s.mem.byte st off := by
  induction l generalizing s with
  | nil => rfl
  | cons i l ih => exact (ih (fireIfDue_ok h i)).trans (fireIfDue_byte h i st off hoff)

theorem foldl_fireIfDue_ctr_of_not_mem {j : Fin 4} (hj : j ∉ l) : (l.foldl State.fireIfDue s).ctr[j] = s.ctr[j] := by
  induction l generalizing s with
  | nil => rfl
  | cons i l ih =>
    obtain ⟨hji, hjl⟩ := List.ne_and_not_mem_of_not_mem_cons hj
    exact (ih (fireIfDue_ok h i) hjl).trans (fireIfDue_ctr_of_ne h (Ne.symm hji))

variable (hl : l.Nodup)

include hl

/-- A counter that has its turn once fires exactly if it was due at the start. -/
theorem foldl_fireIfDue_ctr_of_mem {j : Fin 4} (hj : j ∈ l) : (l.foldl State.fireIfDue s).ctr[j] =
    if counterDue s.cycle s.ctr[j] then counterFired j s.cycle s.ctr[j] else s.ctr[j] := by
  induction l generalizing s with
  | nil => cases hj
  | cons i l ih =>
    obtain ⟨hil, hnodup⟩ := List.nodup_cons.mp hl
    rw [List.foldl_cons]
    by_cases hij : i = j
    · subst hij
      rw [foldl_fireIfDue_ctr_of_not_mem l (fireIfDue_ok h i) hil, fireIfDue_ctr_self h]
    · have hjl : j ∈ l := (List.mem_cons.mp hj).resolve_left (Ne.symm hij)
      rw [ih (fireIfDue_ok h i) hnodup hjl, fireIfDue_due_of_ne h hij, fireIfDue_ctr_of_ne h hij, (fireIfDue_only s i).cycle]

theorem foldl_fireIfDue_iStat (k : Nat) : ((l.foldl State.fireIfDue s).ioWord 0x1070).getLsbD k =
    ((s.ioWord 0x1070).getLsbD k || l.any fun i => decide (k = counterBitIndex i) && counterDue s.cycle s.ctr[i]) := by
  induction l generalizing s with
  | nil => exact (Bool.or_false _).symm
  | cons i l ih =>
    obtain ⟨hil, hnodup⟩ := List.nodup_cons.mp hl
    have hdue : (l.any fun j => decide (k = counterBitIndex j) && counterDue (s.fireIfDue i).cycle (s.fireIfDue i).ctr[j]) =
        l.any fun j => decide (k = counterBitIndex j) && counterDue s.cycle s.ctr[j] :=
      any_congr_of_mem fun j hj => by rw [fireIfDue_due_of_ne h (ne_of_mem_of_not_mem hj hil).symm]
    rw [List.foldl_cons, ih (fireIfDue_ok h i) hnodup, fireIfDue_iStat h, List.any_cons, Bool.or_assoc, hdue]

end FiringInTurn

theorem catchUp_ctr {s : State} (h : BusOk s) (i : Fin 4) : s.catchUp.ctr[i] =
    if counterDue s.cycle s.ctr[i] then counterFired i s.cycle s.ctr[i] else s.ctr[i] :=
  catchUp_eq_foldl s ▸ foldl_fireIfDue_ctr_of_mem [3, 0, 1, 2] h (by decide) (by revert i; decide)

theorem catchUp_iStat {s : State} (h : BusOk s) (k : Nat) : (s.catchUp.ioWord 0x1070).getLsbD k =
    ((s.ioWord 0x1070).getLsbD k || [3, 0, 1, 2].any fun i => decide (k = counterBitIndex i) && counterDue s.cycle s.ctr[i]) :=
  catchUp_eq_foldl s ▸ foldl_fireIfDue_iStat [3, 0, 1, 2] h (by decide) k

/-- Settles O52: the four counters in turn, each of them due as it was at the start. -/
theorem counterCatchUp : Obligations.CounterCatchUp := by
  intro s hwf hctr due
  have h : BusOk s := ⟨hwf, hctr⟩
  have hdue (i : Fin 4) : due i = counterDue s.cycle s.ctr[i] := rfl
  refine ⟨foldl_fireIfDue_countersOnly [3, 0, 1, 2] s, foldl_fireIfDue_byte [3, 0, 1, 2] h, fun k => ?bits, fun i => ⟨fun hno => ?off, fun hyes => ?fired⟩⟩
  case bits =>
    rw [catchUp_iStat h]
    simp only [hdue, List.any_cons, List.any_nil, Bool.or_false, Bool.or_assoc]
    rfl
  case off => rw [catchUp_ctr h, ← hdue, hno]; rfl
  case fired => rw [catchUp_ctr h, ← hdue, hyes]; rfl

/-! ### The document's scenario (R322) -/

/-- Counter 0 after target 100 and mode 0x10 were stored in cycle `now`. -/
def scenarioCounter (now : Word) (c : Counter) : Counter :=
  { c with count := 0, mode := 0x10, target := 100, sCycle := now, cycles := some 100, rate := 1 }

/-- The two stores, as the two writes of the register file. -/
theorem scenario_stores (s : State) : (s.memWrite 0x1F801108 .word 100).memWrite 0x1F801104 .word 0x10 =
    (s.writeTarget 0 100).writeMode 0 0x10 := by
  have htarget : s.memWrite 0x1F801108 .word 100 = s.writeTarget 0 100 :=
    (memAccess_target (i := 0) (a := 0x1F801100) rfl (by decide) s (by decide) 100).2
  have hmode : (s.writeTarget 0 100).memWrite 0x1F801104 .word 0x10 = (s.writeTarget 0 100).writeMode 0 0x10 :=
    (memAccess_mode (i := 0) (a := 0x1F801100) rfl (by decide) _ (by decide) 0x10).2
  rw [htarget, hmode]

/-- 100 ticks at the rate 1. -/
theorem scenario_cycles (now : Word) {c : Counter} (hcount : c.count = 0) (hmode : c.mode = 0x10) (htarget : c.target = 100)
    (hrate : c.rate = 1) : (counterUpd 0 now c).cycles = some 100 := by
  simp only [counterUpd, ticksToEvent, hcount, hmode, htarget, hrate]
  decide

theorem scenario_ctr (s : State) : ((s.writeTarget 0 100).writeMode 0 0x10).ctr[0] = scenarioCounter s.cycle s.ctr[0] := by
  have hcaught : (s.writeTarget 0 100).ctr[0] = counterUpd 0 s.cycle { s.ctr[0] with count := s.readCount 0, target := 100 } :=
    Vector.getElem_set_self _
  have hset : ((s.writeTarget 0 100).writeMode 0 0x10).ctr[0] =
      counterUpd 0 s.cycle { (s.writeTarget 0 100).ctr[0] with mode := 0x10, count := 0, rate := rateFor 0 0x10 } :=
    Vector.getElem_set_self _
  have hcycles := scenario_cycles s.cycle (c := { (s.writeTarget 0 100).ctr[0] with mode := 0x10, count := 0, rate := rateFor 0 0x10 })
    rfl rfl (by rw [hcaught]; rfl) (by decide : rateFor 0 0x10 = 1)
  rw [hset, scenarioCounter, ← hcycles, hcaught]
  rfl

/-- The count of the scenario is the number of cycles that have passed, and the deadline is 100 of them. -/
theorem scenarioCounter_elapsed (now : Word) (c : Counter) {d : Nat} (hd : d ≤ 100) :
    counterCount (now + BitVec.ofNat 32 d) (scenarioCounter now c) = BitVec.ofNat 32 d ∧
    counterDue (now + BitVec.ofNat 32 d) (scenarioCounter now c) = decide (100 ≤ d) := by
  have helapsed : now + BitVec.ofNat 32 d - now = BitVec.ofNat 32 d := by rw [BitVec.add_comm, BitVec.add_sub_cancel]
  have htoNat : (BitVec.ofNat 32 d).toNat = d := by rw [BitVec.toNat_ofNat]; omega
  constructor
  · rw [counterCount_eq]
    change BitVec.ofNat 32 ((0 + (now + BitVec.ofNat 32 d - now).toNat / 1) % 0x10000) = _
    rw [helapsed, htoNat, Nat.zero_add, Nat.div_one, Nat.mod_eq_of_lt (by omega)]
  · change decide (100#32 ≤ now + BitVec.ofNat 32 d - now) = _
    rw [helapsed, decide_eq_decide, BitVec.le_def, htoNat]
    rfl

/-- The scenario's mode does not repeat. -/
theorem scenarioCounter_fired (now later : Word) (c : Counter) : (counterFired 0 later (scenarioCounter now c)).cycles = none := by
  have honce : ¬(scenarioCounter now c).mode.getLsbD 6 = true := by
    change ¬(0x10 : Word).getLsbD 6 = true
    decide
  rw [counterFired, if_neg honce]

theorem catchUp_iStat_four {s : State} (h : BusOk s) : (s.catchUp.ioWord 0x1070).getLsbD 4 =
    ((s.ioWord 0x1070).getLsbD 4 || counterDue s.cycle s.ctr[(0 : Fin 4)]) := by
  rw [catchUp_iStat h]
  simp [counterBitIndex]

/-- With no firmware agent, taking the interrupt changes neither memory nor a counter. -/
theorem evaluate_memory {s : State} (hf : s.params.firmware = .absent) :
    s.evaluate.mem = s.catchUp.mem ∧ s.evaluate.ctr = s.catchUp.ctr := by
  rcases evaluate_cases s with ⟨-, h⟩ | ⟨-, h⟩
  · rw [h]
    exact ⟨rfl, rfl⟩
  · rw [h, raise_absent _ _ _ _ ((catchUp_only s).params ▸ hf), trapRegisters_frame]
    exact ⟨rfl, rfl⟩

/-- A state whose counter 0 is the scenario's, `d` cycles later: what it reads, and what an evaluation does to it. -/
theorem scenario_later {t : State} (h : BusOk t) {now : Word} {c : Counter} {d : Nat} (hd : d ≤ 100)
    (hctr : t.ctr[(0 : Fin 4)] = scenarioCounter now c) (hcycle : t.cycle = now + BitVec.ofNat 32 d) :
    (t.memRead 0x1F801100 .word).1 = BitVec.ofNat 32 d ∧
    (d < 100 → t.catchUp.ctr[(0 : Fin 4)] = t.ctr[(0 : Fin 4)] ∧
      (t.catchUp.ioWord 0x1070).getLsbD 4 = (t.ioWord 0x1070).getLsbD 4) ∧
    (d = 100 → t.catchUp.ctr[(0 : Fin 4)].cycles = none ∧ (t.catchUp.ioWord 0x1070).getLsbD 4 = true) := by
  obtain ⟨hcount, hdue⟩ := scenarioCounter_elapsed now c hd
  have hread : t.memRead 0x1F801100 .word = (t.readCount 0, t) :=
    (memAccess_count (i := 0) (a := 0x1F801100) rfl (by decide) t (by decide) 0).1
  rw [hread, catchUp_ctr h, catchUp_iStat_four h, State.readCount, hctr, hcycle, hdue]
  refine ⟨hcount, fun hbefore => ?before, fun hat => ?hundred⟩
  case before =>
    rw [decide_eq_false (by omega)]
    exact ⟨rfl, Bool.or_false _⟩
  case hundred =>
    rw [decide_eq_true (by omega)]
    exact ⟨scenarioCounter_fired _ _ c, Bool.or_true _⟩

/-- Settles O53: the two stores leave `scenarioCounter` and memory as it was. -/
theorem counterScenario : Obligations.CounterScenario := by
  intro s d hwf hctr hd armed later
  have harmed : armed = (s.writeTarget 0 100).writeMode 0 0x10 := scenario_stores s
  have hok : BusOk armed := memWrite_ok (memWrite_ok ⟨hwf, hctr⟩ _ _ _) _ _ _
  have hcounter : armed.ctr[(0 : Fin 4)] = scenarioCounter s.cycle s.ctr[(0 : Fin 4)] := by rw [harmed]; exact scenario_ctr s
  have hmem : armed.mem = s.mem := by rw [harmed]; rfl
  have hfirmware : armed.params.firmware = s.params.firmware := by rw [harmed]; rfl
  clear_value armed
  have hio : later.ioWord 0x1070 = s.ioWord 0x1070 := congrArg (fun m : Memory => m.load .io 0x1070 .word) hmem
  obtain ⟨hcount, hbefore, hhundred⟩ := scenario_later (t := later) (hok.of_same rfl rfl) hd hcounter rfl
  exact ⟨hcount, fun hlt => by rw [← hio]; exact hbefore hlt, hhundred, fun hf => evaluate_memory (hfirmware.trans hf)⟩

end Sys2Proof.Machine

/-! ## The host's calls (70_reset_and_hazards.md R340 to R355)

Reset with a ROM image; launch; `runUntil` against `stepCycles`; a raw copy byte by byte. -/

namespace Sys2Proof.Machine

/-! ### Reset and launch -/

/-- ROM_IMAGE byte by byte: image byte `k` stands at offset `n + k`. -/
theorem byte_foldl_setByte_rom (image : List Byte) {m : Memory} (hwf : m.wf = true) (n off : Nat) (hfits : n + image.length ≤ 0x80000) :
    ((image.zipIdx n).foldl (fun (m : Memory) b => m.setByte .rom b.2 b.1) m).byte .rom off =
      if off < n then m.byte .rom off else image[off - n]?.getD (m.byte .rom off) := by
  induction image generalizing m n with
  | nil => simp
  | cons b image ih =>
    have hin : n < Store.rom.size := by rw [List.length_cons] at hfits; change n < 0x80000; omega
    rw [List.length_cons] at hfits
    rw [List.zipIdx_cons, List.foldl_cons, ih (Memory.setByte_wf hwf _ _ _) (n + 1) (by omega), Memory.byte_setByte hwf]
    rcases Nat.lt_trichotomy off n with hlt | heq | hgt
    · rw [if_pos (by omega), if_neg (by omega), if_pos hlt]
    · rw [if_pos (by omega), if_pos ⟨rfl, heq, hin⟩, if_neg (by omega), heq, Nat.sub_self]
      rfl
    · rw [if_neg (by omega), if_neg (by omega), if_neg (by omega), show off - n = (off - (n + 1)) + 1 by omega, List.getElem?_cons_succ]

theorem byte_romCells {image : List Byte} (hlen : image.length ≤ 0x80000) (off : Nat) :
    cellsRead (romCells image) off = image[off]?.getD 0 := by
  have h := byte_foldl_setByte_rom image (m := ⟨[], [], [], []⟩) rfl 0 off (by omega)
  rwa [if_neg (Nat.not_lt_zero off)] at h

theorem hostReset_readCop0 (s : State) (status : Word) (image : List Byte) (r : Reg) :
    (s.hostReset status image).readCop0 r = if r = 12 then status else State.reset.readCop0 r := by
  have hset : s.hostReset status image = ({ s.hostReset status image with
      cop0 := Vector.replicate 32 0 }.writeCop0 statusReg status).writeCop0 pridReg resetPrid := rfl
  have hzero : ({ s.hostReset status image with cop0 := Vector.replicate 32 0 } : State).readCop0 r = 0 := by
    simp [State.readCop0]
  rw [hset, readCop0_writeCop0, readCop0_writeCop0, hzero, reset_readCop0]
  by_cases h12 : r = 12
  · subst h12
    rfl
  · rw [if_neg (show r ≠ statusReg from h12), if_neg h12, if_neg h12]
    rfl

theorem launch_readReg (s : State) (entry sp gp : Word) (r : Reg) : (s.launch entry sp gp).readReg r =
    if r = 28 then gp else if r = 29 then sp else s.readReg r := by
  have hset : (s.launch entry sp gp).readReg r = (((s.setPc entry).writeReg 29 sp).writeReg 28 gp).readReg r := rfl
  rw [hset, readReg_writeReg, readReg_writeReg]
  by_cases h28 : r = 28
  · subst h28
    rfl
  · by_cases h29 : r = 29
    · subst h29
      rfl
    · rw [if_neg fun h => h28 h.1, if_neg fun h => h29 h.1, if_neg h28, if_neg h29]
      rfl

/-! ### Running until an address (R354, R355) -/

/-- After `m` steps the machine runs and has not reached `target`. -/
def NotYet (target : Word) (s : State) (m : Nat) : Prop := ∃ u, State.stepCycles m s = .next u ∧ u.pc ≠ target

/-- The step does not answer a next state. -/
def Stops (s : State) : Prop := ∀ t, step s ≠ .next t

theorem stepCycles_succ_of_next {s t : State} (h : step s = .next t) (n : Nat) :
    State.stepCycles (n + 1) s = State.stepCycles n t := by
  rw [State.stepCycles, h]

theorem stepCycles_succ_of_stops {s : State} (h : Stops s) (n : Nat) : State.stepCycles (n + 1) s = step s := by
  rw [State.stepCycles]
  cases hs : step s with
  | next t => exact absurd hs (h t)
  | fault f | refused r => rfl

section RunUntil

variable {target : Word} {s : State}

theorem notYet_zero : NotYet target s 0 ↔ s.pc ≠ target :=
  ⟨fun ⟨_, hu, hpc⟩ => by cases hu; exact hpc, fun h => ⟨s, rfl, h⟩⟩

theorem notYet_succ_of_next {t : State} (h : step s = .next t) (m : Nat) : NotYet target s (m + 1) ↔ NotYet target t m := by
  rw [NotYet, stepCycles_succ_of_next h, NotYet]

theorem runUntil_of_reached (hpc : s.pc = target) (n : Nat) : State.runUntil target n s = some (.next s) := by
  rw [State.runUntil.eq_def]
  exact if_pos hpc

theorem runUntil_zero (hpc : s.pc ≠ target) : State.runUntil target 0 s = none := by
  rw [State.runUntil.eq_def]
  exact if_neg hpc

theorem runUntil_succ_of_next (hpc : s.pc ≠ target) {t : State} (h : step s = .next t) (n : Nat) :
    State.runUntil target (n + 1) s = State.runUntil target n t := by
  rw [State.runUntil.eq_def]
  simp only [if_neg hpc, h]

theorem runUntil_succ_of_stops (hpc : s.pc ≠ target) (h : Stops s) (n : Nat) :
    State.runUntil target (n + 1) s = some (step s) := by
  rw [State.runUntil.eq_def]
  cases hs : step s with
  | next t => exact absurd hs (h t)
  | fault f | refused r => simp only [if_neg hpc, hs]

/-- A state either can take a step, or stops. -/
theorem next_or_stops (s : State) : (∃ t, step s = .next t) ∨ Stops s :=
  (Classical.em _).imp_right not_exists.mp

/-- With its target before it, a run has no step before the target. -/
theorem not_notYet_of_reached (hpc : s.pc = target) {n : Nat} (hn : 0 < n) : ¬∀ m, m < n → NotYet target s m :=
  fun h => notYet_zero.mp (h 0 hn) hpc

theorem not_notYet_of_stops (h : Stops s) (m : Nat) : ¬NotYet target s (m + 1) :=
  fun ⟨u, hu, _⟩ => h u ((stepCycles_succ_of_stops h m).symm.trans hu)

theorem notYet_lt_succ_of_next (hpc : s.pc ≠ target) {t : State} (h : step s = .next t) (n : Nat) :
    (∀ m, m < n + 1 → NotYet target s m) ↔ ∀ m, m < n → NotYet target t m := by
  rw [Nat.forall_lt_succ_left, notYet_zero]
  simp only [notYet_succ_of_next h, hpc, ne_eq, not_false_eq_true, true_and]

/-- `t` is the first state of the run at the target, fewer than `bound` steps on. -/
def Reaches (target : Word) (bound : Nat) (s t : State) : Prop :=
  ∃ n, n < bound ∧ State.stepCycles n s = .next t ∧ t.pc = target ∧ ∀ m, m < n → NotYet target s m

/-- The run stops with `o`, at the latest in the step number `bound`, not having reached the target. -/
def Halts (target : Word) (bound : Nat) (s : State) (o : Host.Outcome State Fault Refusal) : Prop :=
  ∃ n, n < bound ∧ State.stepCycles (n + 1) s = o ∧ ∀ m, m < n + 1 → NotYet target s m

theorem reaches_of_reached (hpc : s.pc = target) (bound : Nat) (t : State) : Reaches target (bound + 1) s t ↔ s = t := by
  constructor
  · rintro ⟨n, -, hsteps, -, hall⟩
    obtain rfl : n = 0 := Nat.eq_zero_of_not_pos fun hn => not_notYet_of_reached hpc hn hall
    exact Host.Outcome.next.inj hsteps
  · rintro rfl
    exact ⟨0, Nat.succ_pos _, rfl, hpc, nofun⟩

theorem reaches_succ_of_next (hpc : s.pc ≠ target) {u : State} (h : step s = .next u) (bound : Nat) (t : State) :
    Reaches target (bound + 1) s t ↔ Reaches target bound u t := by
  have hnow : ¬(State.stepCycles 0 s = .next t ∧ t.pc = target ∧ ∀ m, m < 0 → NotYet target s m) :=
    fun ⟨hs, ht, _⟩ => hpc (by cases hs; exact ht)
  rw [Reaches, Nat.exists_lt_succ_left, or_iff_right hnow]
  simp only [stepCycles_succ_of_next h, notYet_lt_succ_of_next hpc h]
  rfl

theorem not_reaches_of_stops (hpc : s.pc ≠ target) (h : Stops s) (bound : Nat) (t : State) : ¬Reaches target bound s t := by
  rintro ⟨n, -, hsteps, ht, -⟩
  cases n with
  | zero => cases hsteps; exact hpc ht
  | succ n => exact h t ((stepCycles_succ_of_stops h n).symm.trans hsteps)

theorem halts_succ_of_next (hpc : s.pc ≠ target) {u : State} (h : step s = .next u) (bound : Nat)
    {o : Host.Outcome State Fault Refusal} (ho : ∀ t, o ≠ .next t) : Halts target (bound + 1) s o ↔ Halts target bound u o := by
  have hnow : ¬(State.stepCycles (0 + 1) s = o ∧ ∀ m, m < 0 + 1 → NotYet target s m) :=
    fun ⟨hs, _⟩ => ho u (hs.symm.trans (stepCycles_succ_of_next h 0))
  rw [Halts, Nat.exists_lt_succ_left, or_iff_right hnow]
  simp only [stepCycles_succ_of_next h (_ + 1), notYet_lt_succ_of_next hpc h]
  rfl

theorem halts_succ_of_stops (hpc : s.pc ≠ target) (h : Stops s) (bound : Nat) (o : Host.Outcome State Fault Refusal) :
    Halts target (bound + 1) s o ↔ step s = o := by
  constructor
  · rintro ⟨n, -, hsteps, -⟩
    exact (stepCycles_succ_of_stops h n).symm.trans hsteps
  · rintro rfl
    refine ⟨0, Nat.succ_pos _, stepCycles_succ_of_stops h 0, fun m hm => ?_⟩
    cases Nat.lt_one_iff.mp hm
    exact notYet_zero.mpr hpc

theorem runUntil_eq_next_iff (bound : Nat) (t : State) :
    State.runUntil target bound s = some (.next t) ↔ Reaches target (bound + 1) s t := by
  induction bound generalizing s with
  | zero =>
    by_cases hpc : s.pc = target
    · rw [runUntil_of_reached hpc, reaches_of_reached hpc, Option.some_inj, Host.Outcome.next.injEq]
    · rw [runUntil_zero hpc]
      refine iff_of_false nofun fun ⟨n, hn, hsteps, ht, _⟩ => ?_
      cases Nat.lt_one_iff.mp hn
      cases hsteps
      exact hpc ht
  | succ bound ih =>
    by_cases hpc : s.pc = target
    · rw [runUntil_of_reached hpc, reaches_of_reached hpc, Option.some_inj, Host.Outcome.next.injEq]
    · rcases next_or_stops s with ⟨u, hu⟩ | hstop
      · rw [runUntil_succ_of_next hpc hu, ih, reaches_succ_of_next hpc hu]
      · rw [runUntil_succ_of_stops hpc hstop]
        exact iff_of_false (fun h => hstop t (Option.some.inj h)) (not_reaches_of_stops hpc hstop _ t)

theorem runUntil_eq_stop_iff (bound : Nat) {o : Host.Outcome State Fault Refusal} (ho : ∀ t, o ≠ .next t) :
    State.runUntil target bound s = some o ↔ Halts target bound s o := by
  induction bound generalizing s with
  | zero =>
    refine iff_of_false (fun h => ?_) fun ⟨_, hn, _⟩ => Nat.not_lt_zero _ hn
    by_cases hpc : s.pc = target
    · exact ho s (Option.some.inj (h.symm.trans (runUntil_of_reached hpc 0)))
    · cases (runUntil_zero hpc).symm.trans h
  | succ bound ih =>
    by_cases hpc : s.pc = target
    · rw [runUntil_of_reached hpc]
      exact iff_of_false (fun h => ho s (Option.some.inj h).symm) fun ⟨_, _, _, hall⟩ =>
        not_notYet_of_reached hpc (Nat.succ_pos _) hall
    · rcases next_or_stops s with ⟨u, hu⟩ | hstop
      · rw [runUntil_succ_of_next hpc hu, ih, halts_succ_of_next hpc hu _ ho]
      · rw [runUntil_succ_of_stops hpc hstop, halts_succ_of_stops hpc hstop, Option.some_inj]

theorem runUntil_eq_none_iff (bound : Nat) :
    State.runUntil target bound s = none ↔ ∀ m, m < bound + 1 → NotYet target s m := by
  induction bound generalizing s with
  | zero =>
    rw [Nat.forall_lt_succ_left, notYet_zero]
    by_cases hpc : s.pc = target
    · rw [runUntil_of_reached hpc]
      exact iff_of_false nofun fun h => h.1 hpc
    · rw [runUntil_zero hpc]
      exact iff_of_true rfl ⟨hpc, nofun⟩
  | succ bound ih =>
    by_cases hpc : s.pc = target
    · rw [runUntil_of_reached hpc]
      exact iff_of_false nofun (not_notYet_of_reached hpc (Nat.succ_pos _))
    · rcases next_or_stops s with ⟨u, hu⟩ | hstop
      · rw [runUntil_succ_of_next hpc hu, ih, notYet_lt_succ_of_next hpc hu]
      · rw [runUntil_succ_of_stops hpc hstop]
        exact iff_of_false nofun fun h => not_notYet_of_stops hstop 0 (h 1 (by omega))

end RunUntil

/-- R354 and R355, in the words of the obligation. -/
theorem runUntil_cases (s : State) (target : Word) (bound : Nat) :
    (∀ t, State.runUntil target bound s = some (.next t) ↔
      ∃ n, n ≤ bound ∧ State.stepCycles n s = .next t ∧ t.pc = target ∧ ∀ m, m < n → NotYet target s m) ∧
    (∀ why, State.runUntil target bound s = some (.refused why) ↔
      ∃ n, n < bound ∧ State.stepCycles (n + 1) s = .refused why ∧ ∀ m, m ≤ n → NotYet target s m) ∧
    (∀ why, State.runUntil target bound s = some (.fault why) ↔
      ∃ n, n < bound ∧ State.stepCycles (n + 1) s = .fault why ∧ ∀ m, m ≤ n → NotYet target s m) ∧
    (State.runUntil target bound s = none ↔ ∀ m, m ≤ bound → NotYet target s m) := by
  have hrefused (why : Refusal) (t : State) : (.refused why : Host.Outcome State Fault Refusal) ≠ .next t := fun h => by cases h
  have hfault (why : Fault) (t : State) : (.fault why : Host.Outcome State Fault Refusal) ≠ .next t := fun h => by cases h
  simp only [← Nat.lt_add_one_iff]
  exact ⟨runUntil_eq_next_iff bound, fun why => runUntil_eq_stop_iff bound (hrefused why),
    fun why => runUntil_eq_stop_iff bound (hfault why), runUntil_eq_none_iff bound⟩

/-! ### Loading an image (R352) -/

/-- Every page is mapped by a multiple of 2MB, the mirrors of RAM included, so an address gives its offset modulo 2MB. -/
theorem resolve_mod_ram {s : State} {a : Word} {st : Store} {off : Nat} (hr : s.resolve a = some (st, off)) :
    off % 0x200000 = a.toNat % 0x200000 := by
  rw [State.resolve, resolveAt_eq] at hr
  split_ifs at hr <;> cases hr <;> omega

/-- Addresses less than 2MB apart never reach the same byte. -/
theorem resolve_ne_of_near {s : State} {a : Word} {p : Store × Nat} (ha : s.resolve a = some p) {j : Nat} (hpos : 0 < j)
    (hj : j < 0x200000) : s.resolve (a + BitVec.ofNat 32 j) ≠ some p := by
  intro h
  have hmod := (resolve_mod_ram ha).symm.trans (resolve_mod_ram h)
  rw [BitVec.toNat_add, BitVec.toNat_ofNat] at hmod
  omega

/-- `t` differs from `s` at most in memory. -/
def MemOnly (s t : State) : Prop := t = { s with mem := t.mem }

theorem MemOnly.trans {s t u : State} (h : MemOnly s t) (h' : MemOnly t u) : MemOnly s u := by
  unfold MemOnly at *
  rw [h', h]

theorem MemOnly.resolve {s t : State} (h : MemOnly s t) (a : Word) : t.resolve a = s.resolve a := by
  rw [show t = { s with mem := t.mem } from h]
  rfl

theorem rawWrite_memOnly (s : State) (a : Word) (w : Width) (v : Word) : MemOnly s (s.rawWrite a w v) := by
  unfold State.rawWrite
  split <;> rfl

theorem rawWrite_wf {s : State} (hwf : s.mem.wf = true) (a : Word) (w : Width) (v : Word) : (s.rawWrite a w v).mem.wf = true := by
  unfold State.rawWrite
  split
  · exact hwf
  · exact Memory.store_wf hwf _ _ _ _

theorem byte_rawWrite_byte {s : State} (hwf : s.mem.wf = true) (a : Word) (b : Byte) (st : Store) (off : Nat) :
    (s.rawWrite a .byte (b.setWidth 32)).mem.byte st off = if s.resolve a = some (st, off) then b else s.mem.byte st off := by
  cases hr : s.resolve a with
  | none => rw [rawWrite_unmapped hr, if_neg nofun]
  | some p =>
    have hbyte : byteOfWord (b.setWidth 32) 0 = b := BitVec.eq_of_toNat_eq (by simp [byteOfWord]; omega)
    have hfits : p.2 + 1 ≤ p.1.size := resolve_fits (a := a) Width.byte (Nat.mod_one a.toNat) hr
    rw [rawWrite_of_resolve hr, setMem_mem, Memory.byte_store hwf _ _ _ _ .byte _ hfits]
    by_cases hp : p = (st, off)
    · subst hp
      rw [if_pos ⟨rfl, Nat.le_refl _, Nat.lt_succ_self _⟩, if_pos rfl, Nat.sub_self, hbyte]
    · rw [if_neg fun ⟨hst, hle, hlt⟩ => hp (Prod.ext hst.symm (by simp only [widthBytes] at hlt; omega)),
        if_neg fun h => hp (Option.some.inj h)]

theorem loadImage_memOnly (s : State) (a : Word) (bytes : List Byte) : MemOnly s (s.loadImage a bytes) := by
  induction bytes generalizing s a with
  | nil => rfl
  | cons b bytes ih => exact (rawWrite_memOnly s a _ _).trans (ih _ _)

/-- The address of a later byte, from the rest of the image. -/
theorem add_one_add_ofNat (a : Word) (k : Nat) : a + 1 + BitVec.ofNat 32 k = a + BitVec.ofNat 32 (k + 1) := by
  rw [BitVec.add_assoc, BitVec.add_comm 1, BitVec.ofNat_add]
  rfl

section LoadImage

variable {s : State} (hwf : s.mem.wf = true) (a : Word) (bytes : List Byte)

include hwf

/-- What no byte of the image reaches keeps its byte. -/
theorem loadImage_byte_of_not_met (st : Store) (off : Nat)
    (h : ∀ k, k < bytes.length → s.resolve (a + BitVec.ofNat 32 k) ≠ some (st, off)) :
    (s.loadImage a bytes).mem.byte st off = s.mem.byte st off := by
  induction bytes generalizing s a with
  | nil => rfl
  | cons b bytes ih =>
    have hfirst : s.resolve a ≠ some (st, off) := by simpa using h 0 (Nat.succ_pos _)
    rw [State.loadImage, ih (rawWrite_wf hwf _ _ _), byte_rawWrite_byte hwf, if_neg hfirst]
    intro k hk
    rw [(rawWrite_memOnly s a _ _).resolve, add_one_add_ofNat]
    exact h (k + 1) (Nat.succ_lt_succ hk)

/-- Each byte stands where its address reaches: none of the later ones, all less than 2MB further on, is put there. -/
theorem loadImage_byte (hlen : bytes.length ≤ 0x200000) {k : Nat} {b : Byte} (hb : bytes[k]? = some b) {st : Store} {off : Nat}
    (hr : s.resolve (a + BitVec.ofNat 32 k) = some (st, off)) : (s.loadImage a bytes).mem.byte st off = b := by
  induction bytes generalizing s a k with
  | nil => cases hb
  | cons b' bytes ih =>
    rw [List.length_cons] at hlen
    have hresolve (x : Word) : (s.rawWrite a .byte (b'.setWidth 32)).resolve x = s.resolve x := (rawWrite_memOnly s a _ _).resolve x
    rw [State.loadImage]
    cases k with
    | zero =>
      cases hb
      rw [BitVec.add_zero] at hr
      rw [loadImage_byte_of_not_met (rawWrite_wf hwf _ _ _), byte_rawWrite_byte hwf, if_pos hr]
      intro j hj
      rw [hresolve, add_one_add_ofNat]
      exact resolve_ne_of_near hr (Nat.succ_pos j) (by omega)
    | succ k =>
      rw [← add_one_add_ofNat] at hr
      exact ih (rawWrite_wf hwf _ _ _) (a + 1) (by omega) hb ((hresolve _).trans hr)

end LoadImage

/-- Settles O58: the four calls in turn. -/
theorem hostCalls : Obligations.HostCalls := by
  refine ⟨fun s status image hlen => ⟨rfl, hostReset_readCop0 s status image, fun st off => ?rom⟩,
    fun s entry sp gp => ⟨rfl, rfl, launch_readReg s entry sp gp, rfl⟩, runUntil_cases,
    fun s a bytes hwf hlen => ⟨loadImage_memOnly s a bytes, fun k b hb hmapped => ?placed,
      loadImage_byte_of_not_met hwf a bytes⟩⟩
  case rom =>
    cases st with
    | rom => exact byte_romCells hlen off
    | ram | par | io => rfl
  case placed =>
    obtain ⟨⟨st, off⟩, hr⟩ := Option.isSome_iff_exists.mp hmapped
    rw [State.peek, (loadImage_memOnly s a bytes).resolve, hr]
    exact loadImage_byte hwf a bytes hlen hb hr

end Sys2Proof.Machine
